-- ==== Sys2Proof/Word.lean ====
section
/-! DEFINITION. The word types of U256 CORE (00_scope.md R8, R12, R13) and nothing else. -/

namespace Sys2Proof

/-- One DBUF byte (10_state.md R47). -/
abbrev Byte := BitVec 8

/-- One 64-bit storage unit of an Int (00_scope.md R8, R17 "Word"). -/
abbrev Word := BitVec 64

/-- The content of one general register: an Int of four words, a bit pattern in [0, 2^256)
(00_scope.md R8, R14; 10_state.md R31). -/
abbrev U256 := BitVec 256

/-- A command word (30_encoding.md R90). -/
abbrev CmdWord := BitVec 32

/-- A register number 0..15 (20_memory.md R60, 30_encoding.md R93). -/
abbrev Reg := Fin 16

end Sys2Proof
end

