-- ==== Sys2Proof/Config.lean ====
section
/-! DEFINITION. What the spec fixes as parameters (00_scope.md R9, R11), what it leaves open as named parameters
(R10), and the free values of 93_implementation_defined.md. An `opaque` constant has no body: no proof can see
its value, so whatever is proved holds for every value. -/

namespace Sys2Proof.Config

/-- `NREG` (00_scope.md R9). -/
@[simp] abbrev nreg : Nat := 16

/-- `DBUF_BYTES` (00_scope.md R9). -/
@[simp] abbrev dbufBytes : Nat := 64

/-- `CMD_BITS` (00_scope.md R9). -/
@[simp] abbrev cmdBits : Nat := 32

/-- `WINDOW_BYTES` (00_scope.md R9, 20_memory.md R64). -/
@[simp] abbrev windowBytes : Nat := 0x80

/-- `SignedMin = 2^255`: a wired constant, not state (00_scope.md R11, 70_reset_and_hazards.md R283). -/
abbrev signedMin : Nat := 2 ^ 255

/-- `SignedMax = 2^255 - 1`: a wired constant, not state (00_scope.md R11). -/
abbrev signedMax : Nat := 2 ^ 255 - 1

/-- `HOST_BASE`: where the platform places the host register window (00_scope.md R10, 93 U18). No architectural
rule reads it: the machine sees offsets only (`windowOffset`). Log entry 15. -/
opaque hostBase : Nat

/-- The window offset of a platform address, none where the address lies outside the window, where the core
neither sees nor answers the access (20_memory.md R64, R67). -/
def windowOffset (addr : Nat) : Option Nat :=
  if hostBase ≤ addr ∧ addr < hostBase + windowBytes then some (addr - hostBase) else none

/-- What `lat` is drawn from (93 U17). -/
opaque latDraw : BitVec 8 → List U256 → Nat

/-- `LAT(op)`: the cycles from acceptance to completion, a positive finite number that may depend on the operand
values (00_scope.md R10; 70_reset_and_hazards.md R286, R287). No architectural rule reads it and the model keeps
no time. Log entry 15. -/
def lat (op : BitVec 8) (operands : List U256) : Nat := latDraw op operands + 1

/-- What DBUF byte `a` holds from reset number `k` until it is first written: a free draw
(10_state.md R47, 93 U5, U6). Log entry 5. -/
opaque dbufDraw : (k : Nat) → (a : Nat) → Byte

/-- What the `n`-th free draw gives a host read of a DBUF byte made while BUSY = 1
(20_memory.md R69, 93 U7). Log entry 7. -/
opaque busyByte : (n : Nat) → Byte

/-- What the `n`-th free draw gives STATUS.C in a read made while BUSY = 1 (10_state.md R40, 93 U8). Log entry 7. -/
opaque busyC : (n : Nat) → Bool

end Sys2Proof.Config
end

