-- ==== Sys2Proof/Syntax.lean ====
section
/-! DEFINITION. The commands of U256-CMD v1 as syntax: one constructor per row of spec/opcode_table.json
(30_encoding.md R98), its arguments the fields its class uses (R92), in the order rd, rs1, rs2, rs3, n. -/

namespace Sys2Proof

/-- One command (30_encoding.md R98). `n` is the byte count imm8 (R94). -/
inductive Instr where
  -- 40 conversion
  | clr (rd : Reg)
  | mov (rd rs1 : Reg)
  | setb (rd : Reg) (n : Nat)
  | b32 (rs1 : Reg)
  | b20 (rs1 : Reg)
  | wslice (rs1 : Reg) (n : Nat)
  | padb (rs1 : Reg) (n : Nat)
  | u64 (rd rs1 : Reg)
  | i64 (rd rs1 : Reg)
  | u64o (rd rs1 : Reg)
  | isu64 (rd rs1 : Reg)
  | isu128 (rd rs1 : Reg)
  -- 41 add and subtract
  | add (rd rs1 rs2 : Reg)
  | addo (rd rs1 rs2 : Reg)
  | sub (rd rs1 rs2 : Reg)
  | subo (rd rs1 rs2 : Reg)
  | sub64 (rd rs1 rs2 : Reg)
  -- 42 multiply
  | mul (rd rs1 rs2 : Reg)
  | sqr (rd rs1 : Reg)
  -- 43 divide
  | div (rd rs1 rs2 : Reg)
  | mod (rd rs1 rs2 : Reg)
  -- 44 modular and signed division
  | addmod (rd rs1 rs2 rs3 : Reg)
  | mulmod (rd rs1 rs2 rs3 : Reg)
  | sdiv (rd rs1 rs2 : Reg)
  | smod (rd rs1 rs2 : Reg)
  -- 45 shift
  | lsh (rd rs1 rs2 : Reg)
  | rsh (rd rs1 rs2 : Reg)
  | srsh (rd rs1 rs2 : Reg)
  -- 46 compare
  | lt (rd rs1 rs2 : Reg)
  | gt (rd rs1 rs2 : Reg)
  | slt (rd rs1 rs2 : Reg)
  | sgt (rd rs1 rs2 : Reg)
  | cmp (rd rs1 rs2 : Reg)
  -- 47 sign
  | sign (rd rs1 : Reg)
  | abs (rd rs1 : Reg)
  | neg (rd rs1 : Reg)
  -- 48 exponentiation
  | exp (rd rs1 rs2 : Reg)
deriving DecidableEq, Repr

end Sys2Proof
end

