-- ==== Sys2Proof/WellFormed.lean ====
section
/-! DEFINITION. When a term of the syntax is a legal command: its byte count, where it has one, is in 0..64
(30_encoding.md R94, R97). Register fields are in range by their type (R93). -/

namespace Sys2Proof

/-- A byte count is legal in 0..`DBUF_BYTES` (30_encoding.md R94). -/
def lengthOk (n : Nat) : Bool := decide (n ≤ Config.dbufBytes)

/-- The command satisfies every field constraint of 30_encoding.md R99. -/
def Instr.wf : Instr → Bool
  | .setb _ n => lengthOk n
  | .wslice _ n => lengthOk n
  | .padb _ n => lengthOk n
  | .clr _ | .b32 _ | .b20 _ => true
  | .mov _ _ | .u64 _ _ | .i64 _ _ | .u64o _ _ | .isu64 _ _ | .isu128 _ _ => true
  | .sqr _ _ | .sign _ _ | .abs _ _ | .neg _ _ => true
  | .add _ _ _ | .addo _ _ _ | .sub _ _ _ | .subo _ _ _ | .sub64 _ _ _ => true
  | .mul _ _ _ | .div _ _ _ | .mod _ _ _ | .sdiv _ _ _ | .smod _ _ _ => true
  | .addmod _ _ _ _ | .mulmod _ _ _ _ => true
  | .lsh _ _ _ | .rsh _ _ _ | .srsh _ _ _ => true
  | .lt _ _ _ | .gt _ _ _ | .slt _ _ _ | .sgt _ _ _ | .cmp _ _ _ => true
  | .exp _ _ _ => true

end Sys2Proof
end

