-- ==== Sys2Proof/Decode.lean ====
section
/-! DEFINITION. Decoding of a command word (30_encoding.md R90 to R99), total over all 2^32 words and rejecting by
name, and after it the encoder, written from the same tables. -/

namespace Sys2Proof

/-- The three ways an accepted word fails decoding (30_encoding.md R95 to R97, R99). -/
inductive DecodeError where
  /-- The opcode is not listed in R98 (R95). -/
  | undefOpcode
  /-- A field its class reserves is non-zero (R96). -/
  | reservedField
  /-- The byte count of SETB, WSLICE or PADB exceeds 64 (R97). -/
  | lengthRange
deriving DecidableEq, Repr

/-- The operand-use classes (30_encoding.md R92). -/
inductive OpClass where
  | z | un | bin | ter | ld | st | stn
deriving DecidableEq, Repr

/-- The mask of checked bits of a class (30_encoding.md R92, fourth column). -/
def OpClass.mask : OpClass → CmdWord
  | .z => 0xFF0FFFFF#32
  | .un => 0xFF00FFFF#32
  | .bin => 0xFF000FFF#32
  | .ter => 0xFF0000FF#32
  | .ld => 0xFF0FFF00#32
  | .st => 0xFFF0FFFF#32
  | .stn => 0xFFF0FF00#32

/-- The classes that use imm8 as a byte count (30_encoding.md R92, R94). -/
def OpClass.usesLength : OpClass → Bool
  | .ld | .stn => true
  | .z | .un | .bin | .ter | .st => false

/-- `opcode = w[31:24]` (30_encoding.md R91). -/
def opcodeOf (w : CmdWord) : BitVec 8 := w.extractLsb' 24 8

/-- `rd = w[23:20]` (30_encoding.md R91). -/
def rdOf (w : CmdWord) : Reg := (w.extractLsb' 20 4).toFin

/-- `rs1 = w[19:16]` (30_encoding.md R91). -/
def rs1Of (w : CmdWord) : Reg := (w.extractLsb' 16 4).toFin

/-- `rs2 = w[15:12]` (30_encoding.md R91). -/
def rs2Of (w : CmdWord) : Reg := (w.extractLsb' 12 4).toFin

/-- `rs3 = w[11:8]` (30_encoding.md R91). -/
def rs3Of (w : CmdWord) : Reg := (w.extractLsb' 8 4).toFin

/-- `imm8 = w[7:0]`, neither sign-extended nor scaled (30_encoding.md R91, R94). -/
def imm8Of (w : CmdWord) : Nat := (w.extractLsb' 0 8).toNat

/-- One row of the command map: opcode, class, and the command the word's fields make (30_encoding.md R98). -/
structure OpRow where
  code : BitVec 8
  cls : OpClass
  build : CmdWord → Instr

/-- A row of class UN (30_encoding.md R92): rd and rs1. -/
def unRow (code : BitVec 8) (mk : Reg → Reg → Instr) : OpRow := ⟨code, .un, fun w => mk (rdOf w) (rs1Of w)⟩

/-- A row of class BIN (30_encoding.md R92): rd, rs1 and rs2. -/
def binRow (code : BitVec 8) (mk : Reg → Reg → Reg → Instr) : OpRow :=
  ⟨code, .bin, fun w => mk (rdOf w) (rs1Of w) (rs2Of w)⟩

/-- A row of class TER (30_encoding.md R92): rd, rs1, rs2 and rs3. -/
def terRow (code : BitVec 8) (mk : Reg → Reg → Reg → Reg → Instr) : OpRow :=
  ⟨code, .ter, fun w => mk (rdOf w) (rs1Of w) (rs2Of w) (rs3Of w)⟩

/-- Rows 0x01 to 0x0C of 30_encoding.md R98. -/
def conversionRows : List OpRow :=
  [⟨0x01#8, .z, fun w => .clr (rdOf w)⟩,
   unRow 0x02#8 .mov,
   ⟨0x03#8, .ld, fun w => .setb (rdOf w) (imm8Of w)⟩,
   ⟨0x04#8, .st, fun w => .b32 (rs1Of w)⟩,
   ⟨0x05#8, .st, fun w => .b20 (rs1Of w)⟩,
   ⟨0x06#8, .stn, fun w => .wslice (rs1Of w) (imm8Of w)⟩,
   ⟨0x07#8, .stn, fun w => .padb (rs1Of w) (imm8Of w)⟩,
   unRow 0x08#8 .u64, unRow 0x09#8 .i64, unRow 0x0A#8 .u64o, unRow 0x0B#8 .isu64, unRow 0x0C#8 .isu128]

/-- Rows 0x10 to 0x31 of 30_encoding.md R98. -/
def arithmeticRows : List OpRow :=
  [binRow 0x10#8 .add, binRow 0x11#8 .addo, binRow 0x12#8 .sub, binRow 0x13#8 .subo, binRow 0x14#8 .sub64,
   binRow 0x20#8 .mul, unRow 0x21#8 .sqr, binRow 0x30#8 .div, binRow 0x31#8 .mod]

/-- Rows 0x40 to 0x52 of 30_encoding.md R98. -/
def modularShiftRows : List OpRow :=
  [terRow 0x40#8 .addmod, terRow 0x41#8 .mulmod, binRow 0x42#8 .sdiv, binRow 0x43#8 .smod,
   binRow 0x50#8 .lsh, binRow 0x51#8 .rsh, binRow 0x52#8 .srsh]

/-- Rows 0x60 to 0x80 of 30_encoding.md R98. -/
def compareSignExpRows : List OpRow :=
  [binRow 0x60#8 .lt, binRow 0x61#8 .gt, binRow 0x62#8 .slt, binRow 0x63#8 .sgt, binRow 0x64#8 .cmp,
   unRow 0x70#8 .sign, unRow 0x71#8 .abs, unRow 0x72#8 .neg, binRow 0x80#8 .exp]

/-- The complete command map (30_encoding.md R98). -/
def opTable : List OpRow := conversionRows ++ arithmeticRows ++ modularShiftRows ++ compareSignExpRows

/-- The row of an opcode, none where R98 does not list it. -/
def opRow? (op : BitVec 8) : Option OpRow := opTable.find? fun row => row.code == op

/-- `match = opcode << 24` (30_encoding.md R92). -/
def matchWord (op : BitVec 8) : CmdWord := op ++ 0#24

/-- The decoding order of 30_encoding.md R99: the first verdict that applies. -/
def decode (w : CmdWord) : Except DecodeError Instr :=
  match opRow? (opcodeOf w) with
  | none => .error .undefOpcode
  | some row =>
    if w &&& row.cls.mask ≠ matchWord row.code then .error .reservedField
    else if row.cls.usesLength ∧ Config.dbufBytes < imm8Of w then .error .lengthRange
    else .ok (row.build w)

/-- A register number as a 4-bit field (30_encoding.md R91, R93). -/
def regBits (r : Reg) : BitVec 4 := BitVec.ofNat 4 r.val

/-- The word of 30_encoding.md R91 with the given fields. -/
def assembleWord (op : BitVec 8) (rd rs1 rs2 rs3 : Reg) (imm8 : BitVec 8) : CmdWord :=
  op ++ regBits rd ++ regBits rs1 ++ regBits rs2 ++ regBits rs3 ++ imm8

/-- Word of class Z (30_encoding.md R92). -/
def encodeZ (op : BitVec 8) (rd : Reg) : CmdWord := assembleWord op rd 0 0 0 0#8

/-- Word of class UN (30_encoding.md R92). -/
def encodeUn (op : BitVec 8) (rd rs1 : Reg) : CmdWord := assembleWord op rd rs1 0 0 0#8

/-- Word of class BIN (30_encoding.md R92). -/
def encodeBin (op : BitVec 8) (rd rs1 rs2 : Reg) : CmdWord := assembleWord op rd rs1 rs2 0 0#8

/-- Word of class TER (30_encoding.md R92). -/
def encodeTer (op : BitVec 8) (rd rs1 rs2 rs3 : Reg) : CmdWord := assembleWord op rd rs1 rs2 rs3 0#8

/-- Word of class LD (30_encoding.md R92); `n` in 0..64 fits imm8 (R94). -/
def encodeLd (op : BitVec 8) (rd : Reg) (n : Nat) : CmdWord := assembleWord op rd 0 0 0 (BitVec.ofNat 8 n)

/-- Word of class ST (30_encoding.md R92). -/
def encodeSt (op : BitVec 8) (rs1 : Reg) : CmdWord := assembleWord op 0 rs1 0 0 0#8

/-- Word of class STN (30_encoding.md R92). -/
def encodeStn (op : BitVec 8) (rs1 : Reg) (n : Nat) : CmdWord := assembleWord op 0 rs1 0 0 (BitVec.ofNat 8 n)

/-- The opcode of a command (30_encoding.md R98, first column). -/
def opcodeByte : Instr → BitVec 8
  | .clr _ => 0x01#8
  | .mov _ _ => 0x02#8
  | .setb _ _ => 0x03#8
  | .b32 _ => 0x04#8
  | .b20 _ => 0x05#8
  | .wslice _ _ => 0x06#8
  | .padb _ _ => 0x07#8
  | .u64 _ _ => 0x08#8
  | .i64 _ _ => 0x09#8
  | .u64o _ _ => 0x0A#8
  | .isu64 _ _ => 0x0B#8
  | .isu128 _ _ => 0x0C#8
  | .add _ _ _ => 0x10#8
  | .addo _ _ _ => 0x11#8
  | .sub _ _ _ => 0x12#8
  | .subo _ _ _ => 0x13#8
  | .sub64 _ _ _ => 0x14#8
  | .mul _ _ _ => 0x20#8
  | .sqr _ _ => 0x21#8
  | .div _ _ _ => 0x30#8
  | .mod _ _ _ => 0x31#8
  | .addmod _ _ _ _ => 0x40#8
  | .mulmod _ _ _ _ => 0x41#8
  | .sdiv _ _ _ => 0x42#8
  | .smod _ _ _ => 0x43#8
  | .lsh _ _ _ => 0x50#8
  | .rsh _ _ _ => 0x51#8
  | .srsh _ _ _ => 0x52#8
  | .lt _ _ _ => 0x60#8
  | .gt _ _ _ => 0x61#8
  | .slt _ _ _ => 0x62#8
  | .sgt _ _ _ => 0x63#8
  | .cmp _ _ _ => 0x64#8
  | .sign _ _ => 0x70#8
  | .abs _ _ => 0x71#8
  | .neg _ _ => 0x72#8
  | .exp _ _ _ => 0x80#8

/-- The operand-use class of a command (30_encoding.md R98, third column). -/
def classOf : Instr → OpClass
  | .clr _ => .z
  | .setb _ _ => .ld
  | .b32 _ | .b20 _ => .st
  | .wslice _ _ | .padb _ _ => .stn
  | .mov _ _ | .u64 _ _ | .i64 _ _ | .u64o _ _ | .isu64 _ _ | .isu128 _ _ => .un
  | .sqr _ _ | .sign _ _ | .abs _ _ | .neg _ _ => .un
  | .addmod _ _ _ _ | .mulmod _ _ _ _ => .ter
  | .add _ _ _ | .addo _ _ _ | .sub _ _ _ | .subo _ _ _ | .sub64 _ _ _ => .bin
  | .mul _ _ _ | .div _ _ _ | .mod _ _ _ | .sdiv _ _ _ | .smod _ _ _ => .bin
  | .lsh _ _ _ | .rsh _ _ _ | .srsh _ _ _ => .bin
  | .lt _ _ _ | .gt _ _ _ | .slt _ _ _ | .sgt _ _ _ | .cmp _ _ _ | .exp _ _ _ => .bin

/-- The one word of a well-formed command (30_encoding.md R90 to R92, R98): its opcode, the fields its class uses,
and zeros in the reserved fields. -/
def encode (i : Instr) : CmdWord :=
  let op := opcodeByte i
  match i with
  | .clr rd => encodeZ op rd
  | .setb rd n => encodeLd op rd n
  | .b32 rs1 | .b20 rs1 => encodeSt op rs1
  | .wslice rs1 n | .padb rs1 n => encodeStn op rs1 n
  | .mov rd rs1 | .u64 rd rs1 | .i64 rd rs1 | .u64o rd rs1 | .isu64 rd rs1 | .isu128 rd rs1 => encodeUn op rd rs1
  | .sqr rd rs1 | .sign rd rs1 | .abs rd rs1 | .neg rd rs1 => encodeUn op rd rs1
  | .addmod rd rs1 rs2 rs3 | .mulmod rd rs1 rs2 rs3 => encodeTer op rd rs1 rs2 rs3
  | .add rd rs1 rs2 | .addo rd rs1 rs2 | .sub rd rs1 rs2 | .subo rd rs1 rs2 => encodeBin op rd rs1 rs2
  | .sub64 rd rs1 rs2 | .mul rd rs1 rs2 | .div rd rs1 rs2 | .mod rd rs1 rs2 => encodeBin op rd rs1 rs2
  | .sdiv rd rs1 rs2 | .smod rd rs1 rs2 => encodeBin op rd rs1 rs2
  | .lsh rd rs1 rs2 | .rsh rd rs1 rs2 | .srsh rd rs1 rs2 => encodeBin op rd rs1 rs2
  | .lt rd rs1 rs2 | .gt rd rs1 rs2 | .slt rd rs1 rs2 | .sgt rd rs1 rs2 => encodeBin op rd rs1 rs2
  | .cmp rd rs1 rs2 | .exp rd rs1 rs2 => encodeBin op rd rs1 rs2

/-- The command word of `nbits` table bits `w`, numbered as spec/opcode_table.json numbers them: one 32-bit word,
the bits above `nbits` zero (log entry 18). -/
def tableWord (nbits w : Nat) : CmdWord := BitVec.ofNat 32 (w % 2 ^ nbits)

/-- What the decoder reads from a row's word. -/
def decodeTableWord (nbits w : Nat) : Option Instr := (decode (tableWord nbits w)).toOption

end Sys2Proof
end

