-- ==== Sys2Proof/Machine/State.lean ====
section
/-! DEFINITION. The state of U256 CORE as plain data (10_state.md R30 to R48), the inputs of its environment
(60_exceptions.md R271), the reasons a step can stop, and the state after reset (70_reset_and_hazards.md R280). -/

namespace Sys2Proof.Machine

/-- The codes STATUS.CAUSE can hold (60_exceptions.md R252). Codes 6 to 15 are never written (93 U16). -/
inductive Cause where
  | noError
  | undefOpcode
  | reservedField
  | lengthRange
  | cmdBusy
  | dbufBusy
deriving DecidableEq, Repr

/-- DBUF as (byte number, byte) pairs, byte numbers strictly rising; a byte not listed has not been written since
reset (10_state.md R47). -/
abbrev Memory := List Host.Cell

/-- The widths of a host access on the 32-bit host bus (00_scope.md R9; 20_memory.md R65, R66). -/
inductive Width where
  | w8 | w16 | w32
deriving DecidableEq, Repr

/-- Data on the host bus, of one of the bus's widths. -/
inductive BusData where
  | b8 (v : BitVec 8)
  | b16 (v : BitVec 16)
  | b32 (v : BitVec 32)
deriving DecidableEq, Repr

/-- What the outside world does to the core (60_exceptions.md R271): a host access at a window offset, or a change
of the reset input (70_reset_and_hazards.md R280). -/
inductive HostEvent where
  | write (offset : Nat) (data : BusData)
  | read (offset : Nat) (width : Width)
  | assertReset
  | releaseReset
deriving DecidableEq, Repr

/-- Who makes an access: the one host of the core, or another agent (20_memory.md R79). -/
inductive Agent where
  | theHost
  | another
deriving DecidableEq, Repr

/-- One pending action of the environment. `whileBusy` says that it lands while the command accepted before it is
still in progress; it is plain data, so that every timing of the host against `LAT` is some list of actions
(60_exceptions.md R259, 70_reset_and_hazards.md R287; log entry 2). -/
structure HostAction where
  event : HostEvent
  agent : Agent
  whileBusy : Bool
deriving DecidableEq, Repr

/-- The state of the machine. -/
structure State where
  /-- `x[0]` .. `x[15]` (10_state.md R31). -/
  regs : Vector U256 16
  /-- The flag C (10_state.md R36). -/
  c : Bool
  /-- STATUS.ILL (10_state.md R42). -/
  ill : Bool
  /-- STATUS.OVR (10_state.md R42). -/
  ovr : Bool
  /-- STATUS.CAUSE (10_state.md R43). -/
  cause : Cause
  /-- DBUF (10_state.md R47). -/
  dbuf : Memory
  /-- The accepted command in progress; STATUS.BUSY is 1 exactly when there is one (10_state.md R41, R48). -/
  inFlight : Option Instr
  /-- The reset input is asserted (70_reset_and_hazards.md R280, R282). -/
  resetHeld : Bool
  /-- The environment's pending actions, the next one first (60_exceptions.md R271; log entry 1). -/
  host : List HostAction
  /-- What the core drove for the host's last read (60_exceptions.md R271 "core gives back"; log entry 8). -/
  readData : BusData
  /-- A fault of the run has been recorded (60_exceptions.md R256; log entry 9). The model's own field. -/
  runFault : Bool
  /-- How many times the reset input changed DBUF's content; numbers `Config.dbufDraw` (log entries 5, 6). The
  model's own field. -/
  resets : Nat
  /-- How many free draws host reads have taken while BUSY = 1 (log entries 6, 7). The model's own field. -/
  draws : Nat
deriving DecidableEq, Repr

/-- Why a step can stop with a fault. The spec's arithmetic never faults (60_exceptions.md R250) and its error
events go on (R255, R257), so there is one, and no decoded command reaches it. -/
inductive Fault where
  /-- Raised by the meaning of SETB, WSLICE or PADB for a TERM whose byte count exceeds 64: it names DBUF bytes
  that do not exist (20_memory.md R61). The decoder never gives such a term (30_encoding.md R97 rejects the word).
  Safe: the machine has no such command. -/
  | dbufOutOfRange
deriving DecidableEq, Repr

/-- Why a step can be refused: the accesses to which the spec says a model gives no meaning, and an instruction not
modelled yet. -/
inductive Refusal where
  /-- Raised by an arm of `exec` that has no meaning yet. Safe. -/
  | notModelled (mnemonic : String)
  /-- Raised by a host access at offsets 0x00..0x07 that is not a 32-bit access at 0x00 or 0x04
  (20_memory.md R65, 93 U12: "refuse"). Safe: the host is not allowed to make it. -/
  | registerAccessWidth
  /-- Raised by a host access wider than 8 bits at offsets 0x40..0x7F (20_memory.md R66, 93 U12: "refuse"). Safe. -/
  | dbufAccessWidth
  /-- Raised by a host access made while reset is asserted (70_reset_and_hazards.md R282, 93 U13: "refuse"). Safe. -/
  | accessDuringReset
  /-- Raised by an access of a second agent to the window (20_memory.md R79, 93 U2: "refuse"). Safe. -/
  | secondHost
deriving DecidableEq, Repr

/-- What a step, a meaning or an access answers. -/
abbrev Result := Host.Outcome State Fault Refusal

/-- The machine right after reset is released (70_reset_and_hazards.md R280; 10_state.md R30): every register 0,
C 0, STATUS 0, DBUF unspecified (no byte listed), no command in progress. The fields that are the model's own hold
the values log entries 1, 6, 8 and 9 name. -/
def State.reset : State where
  regs := Vector.replicate 16 0
  c := false
  ill := false
  ovr := false
  cause := .noError
  dbuf := []
  inFlight := none
  resetHeld := false
  host := []
  readData := .b32 0
  runFault := false
  resets := 0
  draws := 0

end Sys2Proof.Machine
end

