-- ==== Sys2Proof/Machine/Ops.lean ====
section
/-! DEFINITION. The named operations over registers, C, DBUF and STATUS that every meaning and every host access
goes through (00_scope.md R15; 10_state.md; 60_exceptions.md R255, R257). -/

namespace Sys2Proof.Machine

/-! ### Registers and C (00_scope.md R15) -/

/-- `x[i]` (00_scope.md R15). -/
def State.reg (s : State) (i : Reg) : U256 := s.regs[i]

/-- `x[i] <- v`; no register is hard-wired and no other register changes (10_state.md R31, R33). -/
def State.setReg (s : State) (i : Reg) (v : U256) : State := { s with regs := s.regs.set i v }

/-- `C <- b` (00_scope.md R15). -/
def State.setC (s : State) (b : Bool) : State := { s with c := b }

/-! ### DBUF (10_state.md R47; 20_memory.md R61, R62) -/

/-- The written content of byte `a`, none where it has not been written since reset. -/
def Memory.byte? : Memory → Nat → Option Byte
  | [], _ => none
  | (k, b) :: rest, a => if k = a then some b else Memory.byte? rest a

/-- Write byte `a`, keeping the byte numbers strictly rising. -/
def Memory.put : Memory → Nat → Byte → Memory
  | [], a, b => [(a, b)]
  | (k, x) :: rest, a, b =>
    if a < k then (a, b) :: (k, x) :: rest
    else if a = k then (a, b) :: rest
    else (k, x) :: Memory.put rest a b

/-- Byte numbers strictly rise from above `lo` and lie in DBUF. -/
def Memory.risesFrom : Nat → Memory → Bool
  | _, [] => true
  | lo, (k, _) :: rest => decide (lo ≤ k) && decide (k < Config.dbufBytes) && Memory.risesFrom (k + 1) rest

/-- The canonical form: byte numbers strictly rising, all of them in 0..63 (20_memory.md R60). -/
def Memory.wf (m : Memory) : Bool := Memory.risesFrom 0 m

/-- What a byte not written since reset reads as: the free draw of this reset (10_state.md R47; log entry 5). -/
def State.unwrittenByte (s : State) (a : Nat) : Byte := Config.dbufDraw s.resets a

/-- `DBUF[a]` (00_scope.md R15). -/
def State.dbufByte (s : State) (a : Nat) : Byte := (Memory.byte? s.dbuf a).getD (s.unwrittenByte a)

/-- `DBUF[a] <- b` (00_scope.md R15). -/
def State.setDbufByte (s : State) (a : Nat) (b : Byte) : State := { s with dbuf := Memory.put s.dbuf a b }

/-- `MemRead(addr, n)`: the `n` bytes from `addr` as one big-endian natural, 0 for n = 0 (00_scope.md R15). -/
def State.memRead (s : State) (addr : Nat) : (n : Nat) → Nat
  | 0 => 0
  | n + 1 => s.memRead addr n * 256 + (s.dbufByte (addr + n)).toNat

/-- `MemWrite(addr, n, v)`: `v mod 2^(8n)` into the `n` bytes from `addr`, big-endian (00_scope.md R15). -/
def State.memWrite (s : State) (addr : Nat) : (n : Nat) → (v : Nat) → State
  | 0, _ => s
  | n + 1, v => (s.memWrite addr n (v / 256)).setDbufByte (addr + n) (BitVec.ofNat 8 (v % 256))

/-! ### STATUS (10_state.md R39 to R43) -/

/-- The code of a cause (60_exceptions.md R252). -/
def Cause.code : Cause → BitVec 4
  | .noError => 0#4
  | .undefOpcode => 1#4
  | .reservedField => 2#4
  | .lengthRange => 3#4
  | .cmdBusy => 4#4
  | .dbufBusy => 5#4

/-- The cause of a decode failure (60_exceptions.md R252). -/
def causeOf : DecodeError → Cause
  | .undefOpcode => .undefOpcode
  | .reservedField => .reservedField
  | .lengthRange => .lengthRange

/-- STATUS.BUSY: 1 from the acceptance of a legal command until its completion (10_state.md R41). -/
def State.busy (s : State) : Bool := s.inFlight.isSome

/-- The 32 bits of STATUS with `cBit` in bit 1 (10_state.md R39). -/
def State.statusWith (s : State) (cBit : Bool) : BitVec 32 :=
  0#24 ++ s.cause.code ++ BitVec.ofBool s.ovr ++ BitVec.ofBool s.ill ++ BitVec.ofBool cBit ++ BitVec.ofBool s.busy

/-- STATUS as the host reads it: bit 1 is C while BUSY = 0 and a free draw while BUSY = 1
(10_state.md R39, R40; log entry 7). -/
def State.statusWord (s : State) : BitVec 32 :=
  s.statusWith (if s.busy then Config.busyC s.draws else s.c)

/-! ### The error events and their acknowledgement (60_exceptions.md R251 to R261) -/

/-- An error event writes CAUSE, overwriting the previous code, and is a fault of the run
(10_state.md R43; 60_exceptions.md R253, R256). Shared by the two kinds of error event. -/
def State.recordError (s : State) (k : Cause) : State := { s with cause := k, runFault := true }

/-- `raise IllegalCommand(cause)`: ILL <- 1 and CAUSE <- cause, and nothing else of the core
(60_exceptions.md R255). -/
def State.raiseIllegal (s : State) (e : DecodeError) : State := { s.recordError (causeOf e) with ill := true }

/-- A dropped host write: OVR <- 1 and CAUSE <- `k` (60_exceptions.md R257). -/
def State.dropWrite (s : State) (k : Cause) : State := { s.recordError k with ovr := true }

/-- A host write of `v` to STATUS, the acknowledgement of errors: bits 2 and 3 clear ILL and OVR where they are 1;
CAUSE becomes 0 when both end 0; every other bit is ignored (10_state.md R39 to R43; 60_exceptions.md R261). -/
def State.ackStatus (s : State) (v : BitVec 32) : State :=
  let ill := s.ill && !v.getLsbD 2
  let ovr := s.ovr && !v.getLsbD 3
  { s with ill := ill, ovr := ovr, cause := if ill || ovr then s.cause else .noError }

/-! ### The command in progress, the environment's list, and reset -/

/-- Acceptance: BUSY <- 1 (70_reset_and_hazards.md R285). -/
def State.accept (s : State) (i : Instr) : State := { s with inFlight := some i }

/-- BUSY <- 0 (10_state.md R41). -/
def State.release (s : State) : State := { s with inFlight := none }

/-- The pending actions that remain after one has been taken. -/
def State.withHost (s : State) (pending : List HostAction) : State := { s with host := pending }

/-- The core drives `d` for a host read. -/
def State.drive (s : State) (d : BusData) : State := { s with readData := d }

/-- A read that took a free draw: the next one is a new draw (93 U7, U8). -/
def State.nextDraw (s : State) : State := { s with draws := s.draws + 1 }

/-- The reset input takes the level `held`: every piece of the core's state takes its reset value and DBUF's content
is drawn anew; a command in progress is abandoned (70_reset_and_hazards.md R280, R281; log entries 5, 9, 12). The
environment's list, its last read data, the record of run faults and the draw counter are not state of the core. -/
def State.resetTo (s : State) (held : Bool) : State :=
  { State.reset with
    resetHeld := held, host := s.host, readData := s.readData, runFault := s.runFault,
    resets := s.resets + 1, draws := s.draws }

end Sys2Proof.Machine
end

