-- ==== Sys2Proof/Machine/Operands.lean ====
section
/-! DEFINITION. The operand forms of the command classes (30_encoding.md R92) and the readings of a 256-bit value
(00_scope.md R13, R14). Every form reads its sources from the state before the command and then writes
(00_scope.md R16): the writes below are applied to a state whose sources have already been taken. -/

namespace Sys2Proof.Machine

/-! ### Readings of a value (00_scope.md R13, R14) -/

/-- `word(v, k) = v[64k+63 : 64k]` (00_scope.md R13). -/
def wordOf (v : U256) (k : Nat) : Word := v.extractLsb' (64 * k) 64

/-- A natural reduced modulo 2^256 (00_scope.md R12, 10_state.md R33). -/
def wrap (n : Nat) : U256 := BitVec.ofNat 256 n

/-- `isneg(v)`: bit 255 (00_scope.md R14). -/
def isneg (v : U256) : Bool := v.getLsbD 255

/-- `neg(v) = (2^256 - v) mod 2^256` (00_scope.md R14). -/
def negWrap (v : U256) : U256 := wrap (2 ^ 256 - v.toNat)

/-- `signed(v)`: the two's-complement reading (00_scope.md R14). -/
def signedOf (v : U256) : Int := if v.toNat < Config.signedMin then (v.toNat : Int) else (v.toNat : Int) - 2 ^ 256

/-- `enc`, the 256-bit encoding of a small signed result: enc(-1) = 2^256 - 1, enc(0) = 0, enc(1) = 1
(00_scope.md R14). -/
def enc (z : Int) : U256 := BitVec.ofInt 256 z

/-- `b2v(b)` (00_scope.md R14). -/
def b2v (b : Bool) : U256 := if b then 1#256 else 0#256

/-- The magnitude of a two's-complement value: `isneg(v) ? neg(v) : v` (44_modular.md R198, 47_sign.md R232;
90_conflicts.md C5: SignedMin gives 2^255 read unsigned). -/
def magnitude (v : U256) : U256 := if isneg v then negWrap v else v

/-! ### Operand forms (30_encoding.md R92) -/

/-- Class UN without a flag: `x[rd] <- f(x[rs1])`. -/
def unaryForm (f : U256 → U256) (rd rs1 : Reg) (s : State) : Result :=
  .next (s.setReg rd (f (s.reg rs1)))

/-- Class UN with a flag: `x[rd] <- f(x[rs1]); C <- p(x[rs1])`. -/
def unaryFlagForm (f : U256 → U256) (p : U256 → Bool) (rd rs1 : Reg) (s : State) : Result :=
  .next ((s.setReg rd (f (s.reg rs1))).setC (p (s.reg rs1)))

/-- Class BIN without a flag: `x[rd] <- f(x[rs1], x[rs2])`. -/
def binaryForm (f : U256 → U256 → U256) (rd rs1 rs2 : Reg) (s : State) : Result :=
  .next (s.setReg rd (f (s.reg rs1) (s.reg rs2)))

/-- Class BIN with a flag: `x[rd] <- f(x[rs1], x[rs2]); C <- p(x[rs1], x[rs2])`. -/
def binaryFlagForm (f : U256 → U256 → U256) (p : U256 → U256 → Bool) (rd rs1 rs2 : Reg) (s : State) : Result :=
  .next ((s.setReg rd (f (s.reg rs1) (s.reg rs2))).setC (p (s.reg rs1) (s.reg rs2)))

/-- A predicate of one source: `x[rd] <- b2v(t); C <- t` (40_conversion.md R134, R135). -/
def unaryPredicate (p : U256 → Bool) (rd rs1 : Reg) (s : State) : Result :=
  unaryFlagForm (fun a => b2v (p a)) p rd rs1 s

/-- A predicate of two sources: `x[rd] <- b2v(t); C <- t` (46_compare.md R220 to R223). -/
def binaryPredicate (p : U256 → U256 → Bool) (rd rs1 rs2 : Reg) (s : State) : Result :=
  binaryFlagForm (fun a b => b2v (p a b)) p rd rs1 rs2 s

/-- Class TER: `x[rd] <- f(x[rs1], x[rs2], x[rs3])`. -/
def ternaryForm (f : U256 → U256 → U256 → U256) (rd rs1 rs2 rs3 : Reg) (s : State) : Result :=
  .next (s.setReg rd (f (s.reg rs1) (s.reg rs2) (s.reg rs3)))

/-- Class LD: `x[rd] <- MemRead(0, n) mod 2^256`, for a length in 0..64 (40_conversion.md R124). -/
def importForm (rd : Reg) (n : Nat) (s : State) : Result :=
  if n ≤ Config.dbufBytes then .next (s.setReg rd (wrap (s.memRead 0 n))) else .fault .dbufOutOfRange

/-- Classes ST and STN: `MemWrite(addr, k, x[rs1] mod 2^(8k))`, for bytes inside DBUF
(40_conversion.md R125 to R128). -/
def exportForm (rs1 : Reg) (addr k : Nat) (s : State) : Result :=
  if addr + k ≤ Config.dbufBytes then .next (s.memWrite addr k ((s.reg rs1).toNat % 2 ^ (8 * k)))
  else .fault .dbufOutOfRange

/-- The operand write-back of SDIV and SMOD: a negative source receives its negation, from the phase-1 values
`a` and `b` (44_modular.md R200). -/
def writeBack (rs1 rs2 : Reg) (a b : U256) (s : State) : State :=
  let s1 := if isneg a then s.setReg rs1 (negWrap a) else s
  if isneg b then s1.setReg rs2 (negWrap b) else s1

/-- SDIV and SMOD: the write-back, then `x[rd] <- f(a, b)`, written last (44_modular.md R198 to R200). -/
def signedDivForm (f : U256 → U256 → U256) (rd rs1 rs2 : Reg) (s : State) : Result :=
  .next ((writeBack rs1 rs2 (s.reg rs1) (s.reg rs2) s).setReg rd (f (s.reg rs1) (s.reg rs2)))

end Sys2Proof.Machine
end

