-- ==== Sys2Proof/Machine/Flags.lean ====
section
/-! DEFINITION. Every value the commands write to C (10_state.md R37), and the predicates that give it. -/

namespace Sys2Proof.Machine

/-- ADDO: the carry out of bit 255 of a + b (41_addsub.md R151). -/
def carryOut (a b : U256) : Bool := decide (2 ^ 256 ≤ a.toNat + b.toNat)

/-- SUBO: the borrow out of bit 255 of a - b, 1 exactly when a < b (41_addsub.md R153). -/
def borrowOut (a b : U256) : Bool := decide (a.toNat < b.toNat)

/-- U64O: some word above word 0 is non-zero (40_conversion.md R133). -/
def exceeds64 (a : U256) : Bool := wordOf a 1 != 0 || wordOf a 2 != 0 || wordOf a 3 != 0

/-- ISU64: words 1, 2 and 3 are zero (40_conversion.md R134). -/
def fits64 (a : U256) : Bool := wordOf a 1 == 0 && wordOf a 2 == 0 && wordOf a 3 == 0

/-- ISU128: words 2 and 3 are zero (40_conversion.md R135). -/
def fits128 (a : U256) : Bool := wordOf a 2 == 0 && wordOf a 3 == 0

/-- LT (46_compare.md R220). -/
def unsignedLt (a b : U256) : Bool := decide (a.toNat < b.toNat)

/-- GT: LT with the sources exchanged (46_compare.md R221). -/
def unsignedGt (a b : U256) : Bool := decide (b.toNat < a.toNat)

/-- SLT (46_compare.md R222). -/
def signedLt (a b : U256) : Bool := decide (signedOf a < signedOf b)

/-- SGT (46_compare.md R223). -/
def signedGt (a b : U256) : Bool := decide (signedOf b < signedOf a)

end Sys2Proof.Machine
end

