-- ==== Sys2Proof/Machine/AddSub.lean ====
section
/-! DEFINITION. Carry-propagate add and subtract (41_addsub.md). -/

namespace Sys2Proof.Machine

/-- `(a + b) mod 2^256` (41_addsub.md R150). -/
def addWrap (a b : U256) : U256 := wrap (a.toNat + b.toNat)

/-- `(a - b) mod 2^256`, the remainder in [0, 2^256) (41_addsub.md R152). -/
def subWrap (a b : U256) : U256 := wrap (a.toNat + 2 ^ 256 - b.toNat)

/-- `(a - word(b, 0)) mod 2^256` (41_addsub.md R154). -/
def subScalar (a b : U256) : U256 := wrap (a.toNat + 2 ^ 256 - (wordOf b 0).toNat)

/-- ADD (41_addsub.md R150). -/
def execAdd (rd rs1 rs2 : Reg) (s : State) : Result := binaryForm addWrap rd rs1 rs2 s

/-- ADDO (41_addsub.md R151). -/
def execAddo (rd rs1 rs2 : Reg) (s : State) : Result := binaryFlagForm addWrap carryOut rd rs1 rs2 s

/-- SUB (41_addsub.md R152). -/
def execSub (rd rs1 rs2 : Reg) (s : State) : Result := binaryForm subWrap rd rs1 rs2 s

/-- SUBO (41_addsub.md R153). -/
def execSubo (rd rs1 rs2 : Reg) (s : State) : Result := binaryFlagForm subWrap borrowOut rd rs1 rs2 s

/-- SUB64 (41_addsub.md R154). -/
def execSub64 (rd rs1 rs2 : Reg) (s : State) : Result := binaryForm subScalar rd rs1 rs2 s

end Sys2Proof.Machine
end

