-- ==== Sys2Proof/Machine/Compare.lean ====
section
/-! DEFINITION. Comparators (46_compare.md). -/

namespace Sys2Proof.Machine

/-- Unsigned three-way compare: -1 for a < b, 1 for a > b, 0 for equal (46_compare.md R224). -/
def threeWay (a b : U256) : U256 := if unsignedLt a b then enc (-1) else if unsignedGt a b then enc 1 else enc 0

/-- LT (46_compare.md R220). -/
def execLt (rd rs1 rs2 : Reg) (s : State) : Result := binaryPredicate unsignedLt rd rs1 rs2 s

/-- GT (46_compare.md R221). -/
def execGt (rd rs1 rs2 : Reg) (s : State) : Result := binaryPredicate unsignedGt rd rs1 rs2 s

/-- SLT (46_compare.md R222). -/
def execSlt (rd rs1 rs2 : Reg) (s : State) : Result := binaryPredicate signedLt rd rs1 rs2 s

/-- SGT (46_compare.md R223). -/
def execSgt (rd rs1 rs2 : Reg) (s : State) : Result := binaryPredicate signedGt rd rs1 rs2 s

/-- CMP: C is not written (46_compare.md R224). -/
def execCmp (rd rs1 rs2 : Reg) (s : State) : Result := binaryForm threeWay rd rs1 rs2 s

end Sys2Proof.Machine
end

