-- ==== Sys2Proof/Machine/Conversion.lean ====
section
/-! DEFINITION. Representation and conversion commands (40_conversion.md). -/

namespace Sys2Proof.Machine

/-- CLR (40_conversion.md R122). -/
def execClr (rd : Reg) (s : State) : Result := .next (s.setReg rd 0#256)

/-- MOV (40_conversion.md R123). -/
def execMov (rd rs1 : Reg) (s : State) : Result := unaryForm (fun a => a) rd rs1 s

/-- SETB (40_conversion.md R124). -/
def execSetb (rd : Reg) (n : Nat) (s : State) : Result := importForm rd n s

/-- B32 (40_conversion.md R125). -/
def execB32 (rs1 : Reg) (s : State) : Result := exportForm rs1 0 32 s

/-- B20: the low 160 bits (40_conversion.md R126). -/
def execB20 (rs1 : Reg) (s : State) : Result := exportForm rs1 0 20 s

/-- WSLICE: the bytes above the low 32 of DBUF[0..n-1] stay untouched (40_conversion.md R127). -/
def execWslice (rs1 : Reg) (n : Nat) (s : State) : Result :=
  if 32 ≤ n then exportForm rs1 (n - 32) 32 s else exportForm rs1 0 n s

/-- PADB: zero-padded on the left (40_conversion.md R128). -/
def execPadb (rs1 : Reg) (n : Nat) (s : State) : Result := exportForm rs1 0 n s

/-- The low word, zero-extended (40_conversion.md R131). -/
def lowWord (a : U256) : U256 := (wordOf a 0).setWidth 256

/-- The low word, sign-extended: `sext_64(word(a, 0))` (40_conversion.md R132). -/
def lowWordSigned (a : U256) : U256 := (wordOf a 0).signExtend 256

/-- U64 (40_conversion.md R131). -/
def execU64 (rd rs1 : Reg) (s : State) : Result := unaryForm lowWord rd rs1 s

/-- I64 (40_conversion.md R132). -/
def execI64 (rd rs1 : Reg) (s : State) : Result := unaryForm lowWordSigned rd rs1 s

/-- U64O (40_conversion.md R133). -/
def execU64o (rd rs1 : Reg) (s : State) : Result := unaryFlagForm lowWord exceeds64 rd rs1 s

/-- ISU64 (40_conversion.md R134). -/
def execIsu64 (rd rs1 : Reg) (s : State) : Result := unaryPredicate fits64 rd rs1 s

/-- ISU128 (40_conversion.md R135). -/
def execIsu128 (rd rs1 : Reg) (s : State) : Result := unaryPredicate fits128 rd rs1 s

end Sys2Proof.Machine
end

