-- ==== Sys2Proof/Machine/Divide.lean ====
section
/-! DEFINITION. The division engine (43_divide.md). Results are normative; the engine's digit steps are not run
(43_divide.md R181; log entry 16). -/

namespace Sys2Proof.Machine

/-- `divrem(N, d)`: quotient and remainder, both 0 for d = 0 (43_divide.md R175, R178). -/
def divrem (n d : Nat) : Nat × Nat := if d = 0 then (0, 0) else (n / d, n % d)

/-- Unsigned quotient (43_divide.md R176). -/
def quotient (a b : U256) : U256 := wrap (divrem a.toNat b.toNat).1

/-- Unsigned remainder (43_divide.md R177). -/
def remainder (a b : U256) : U256 := wrap (divrem a.toNat b.toNat).2

/-- DIV (43_divide.md R176). -/
def execDiv (rd rs1 rs2 : Reg) (s : State) : Result := binaryForm quotient rd rs1 rs2 s

/-- MOD (43_divide.md R177). -/
def execMod (rd rs1 rs2 : Reg) (s : State) : Result := binaryForm remainder rd rs1 rs2 s

end Sys2Proof.Machine
end

