-- ==== Sys2Proof/Machine/Multiply.lean ====
section
/-! DEFINITION. Wide multiplier and squarer (42_multiply.md). -/

namespace Sys2Proof.Machine

/-- `umul(a, b)`: the exact 512-bit product (42_multiply.md R168). Its word-by-word computation is
`umulWords` in WordChain.lean. -/
def umul (a b : U256) : Nat := a.toNat * b.toNat

/-- `(a * b) mod 2^256` (42_multiply.md R166). -/
def mulWrap (a b : U256) : U256 := wrap (umul a b)

/-- MUL (42_multiply.md R166). -/
def execMul (rd rs1 rs2 : Reg) (s : State) : Result := binaryForm mulWrap rd rs1 rs2 s

/-- SQR (42_multiply.md R167). -/
def execSqr (rd rs1 : Reg) (s : State) : Result := unaryForm (fun a => mulWrap a a) rd rs1 s

end Sys2Proof.Machine
end

