-- ==== Sys2Proof/Machine/Exponent.lean ====
section
/-! DEFINITION. Exponentiation (48_exp.md). The value of R241 is computed by the loop of R242, because `a^e` itself
cannot be evaluated for a 256-bit exponent; that the two agree is stated as an obligation (log entry 17). -/

namespace Sys2Proof.Machine

/-- The loop of 48_exp.md R242 with `left` exponent bits still to scan, the next of them bit `k`: `acc` is the
accumulator and `run` the running multiplier. -/
def expLoop (e : U256) : (left k : Nat) → (acc run : U256) → U256
  | 0, _, acc, _ => acc
  | left + 1, k, acc, run => expLoop e left (k + 1) (if e.getLsbD k then mulWrap acc run else acc) (mulWrap run run)

/-- `a^e mod 2^256`, with a^0 = 1 for every a (48_exp.md R241, R242). -/
def expWrap (a e : U256) : U256 := expLoop e 256 0 1#256 a

/-- EXP (48_exp.md R241). -/
def execExp (rd rs1 rs2 : Reg) (s : State) : Result := binaryForm expWrap rd rs1 rs2 s

end Sys2Proof.Machine
end

