-- ==== Sys2Proof/Machine/Modular.lean ====
section
/-! DEFINITION. Modular reduction and signed division (44_modular.md). -/

namespace Sys2Proof.Machine

/-- The exact sum reduced by the division engine (44_modular.md R195, R196). -/
def addModulo (a b m : U256) : U256 := wrap (divrem (a.toNat + b.toNat) m.toNat).2

/-- The exact product reduced by the division engine (44_modular.md R195, R197). -/
def mulModulo (a b m : U256) : U256 := wrap (divrem (umul a b) m.toNat).2

/-- Signed quotient, truncated toward zero (44_modular.md R198). -/
def signedQuotient (a b : U256) : U256 :=
  let q := quotient (magnitude a) (magnitude b)
  if isneg a != isneg b then negWrap q else q

/-- Signed remainder, with the dividend's sign (44_modular.md R199). -/
def signedRemainder (a b : U256) : U256 :=
  let r := remainder (magnitude a) (magnitude b)
  if isneg a then negWrap r else r

/-- ADDMOD (44_modular.md R196, R201). -/
def execAddmod (rd rs1 rs2 rs3 : Reg) (s : State) : Result := ternaryForm addModulo rd rs1 rs2 rs3 s

/-- MULMOD (44_modular.md R197, R201). -/
def execMulmod (rd rs1 rs2 rs3 : Reg) (s : State) : Result := ternaryForm mulModulo rd rs1 rs2 rs3 s

/-- SDIV (44_modular.md R198, R200). -/
def execSdiv (rd rs1 rs2 : Reg) (s : State) : Result := signedDivForm signedQuotient rd rs1 rs2 s

/-- SMOD (44_modular.md R199, R200). -/
def execSmod (rd rs1 rs2 : Reg) (s : State) : Result := signedDivForm signedRemainder rd rs1 rs2 s

end Sys2Proof.Machine
end

