-- ==== Sys2Proof/Machine/Shift.lean ====
section
/-! DEFINITION. Barrel shifter (45_shift.md). The amount is the full 256-bit value of `x[rs2]`; every amount of 256
or more clears or saturates, and none is reduced (45_shift.md R210). -/

namespace Sys2Proof.Machine

/-- Logical left shift (45_shift.md R211). -/
def shiftLeft (a n : U256) : U256 := if 256 ≤ n.toNat then 0#256 else wrap (a.toNat * 2 ^ n.toNat)

/-- Logical right shift (45_shift.md R212). -/
def shiftRight (a n : U256) : U256 := if 256 ≤ n.toNat then 0#256 else wrap (a.toNat / 2 ^ n.toNat)

/-- Arithmetic right shift (45_shift.md R213). -/
def shiftRightSigned (a n : U256) : U256 :=
  if !isneg a then shiftRight a n
  else if 256 ≤ n.toNat then wrap (2 ^ 256 - 1)
  else wrap (a.toNat / 2 ^ n.toNat + (2 ^ 256 - 2 ^ (256 - n.toNat)))

/-- LSH (45_shift.md R211). -/
def execLsh (rd rs1 rs2 : Reg) (s : State) : Result := binaryForm shiftLeft rd rs1 rs2 s

/-- RSH (45_shift.md R212). -/
def execRsh (rd rs1 rs2 : Reg) (s : State) : Result := binaryForm shiftRight rd rs1 rs2 s

/-- SRSH (45_shift.md R213). -/
def execSrsh (rd rs1 rs2 : Reg) (s : State) : Result := binaryForm shiftRightSigned rd rs1 rs2 s

end Sys2Proof.Machine
end

