-- ==== Sys2Proof/Machine/Sign.lean ====
section
/-! DEFINITION. Two's-complement sign unit (47_sign.md). -/

namespace Sys2Proof.Machine

/-- Sign of the two's-complement reading (47_sign.md R231). -/
def signValue (a : U256) : U256 :=
  if a.toNat = 0 then enc 0 else if a.toNat < Config.signedMin then enc 1 else enc (-1)

/-- SIGN (47_sign.md R231). -/
def execSign (rd rs1 : Reg) (s : State) : Result := unaryForm signValue rd rs1 s

/-- ABS: SignedMin gives SignedMin (47_sign.md R232). -/
def execAbs (rd rs1 : Reg) (s : State) : Result := unaryForm magnitude rd rs1 s

/-- NEG (47_sign.md R233). -/
def execNeg (rd rs1 : Reg) (s : State) : Result := unaryForm negWrap rd rs1 s

end Sys2Proof.Machine
end

