-- ==== Sys2Proof/Machine/Dispatch.lean ====
section
/-! DEFINITION. The whole effect of one accepted command, its completion (70_reset_and_hazards.md R285): one arm per
constructor of Instr, each one direct call of that command's meaning. -/

namespace Sys2Proof.Machine

/-- What the command `i` does to the state in which it was accepted. -/
def exec (i : Instr) (s : State) : Host.Outcome State Fault Refusal :=
  match i with
  -- 40_conversion.md
  | .clr rd => Sys2Proof.Machine.execClr rd s
  | .mov rd rs1 => Sys2Proof.Machine.execMov rd rs1 s
  | .setb rd n => Sys2Proof.Machine.execSetb rd n s
  | .b32 rs1 => Sys2Proof.Machine.execB32 rs1 s
  | .b20 rs1 => Sys2Proof.Machine.execB20 rs1 s
  | .wslice rs1 n => Sys2Proof.Machine.execWslice rs1 n s
  | .padb rs1 n => Sys2Proof.Machine.execPadb rs1 n s
  | .u64 rd rs1 => Sys2Proof.Machine.execU64 rd rs1 s
  | .i64 rd rs1 => Sys2Proof.Machine.execI64 rd rs1 s
  | .u64o rd rs1 => Sys2Proof.Machine.execU64o rd rs1 s
  | .isu64 rd rs1 => Sys2Proof.Machine.execIsu64 rd rs1 s
  | .isu128 rd rs1 => Sys2Proof.Machine.execIsu128 rd rs1 s
  -- 41_addsub.md
  | .add rd rs1 rs2 => Sys2Proof.Machine.execAdd rd rs1 rs2 s
  | .addo rd rs1 rs2 => Sys2Proof.Machine.execAddo rd rs1 rs2 s
  | .sub rd rs1 rs2 => Sys2Proof.Machine.execSub rd rs1 rs2 s
  | .subo rd rs1 rs2 => Sys2Proof.Machine.execSubo rd rs1 rs2 s
  | .sub64 rd rs1 rs2 => Sys2Proof.Machine.execSub64 rd rs1 rs2 s
  -- 42_multiply.md
  | .mul rd rs1 rs2 => Sys2Proof.Machine.execMul rd rs1 rs2 s
  | .sqr rd rs1 => Sys2Proof.Machine.execSqr rd rs1 s
  -- 43_divide.md
  | .div rd rs1 rs2 => Sys2Proof.Machine.execDiv rd rs1 rs2 s
  | .mod rd rs1 rs2 => Sys2Proof.Machine.execMod rd rs1 rs2 s
  -- 44_modular.md
  | .addmod rd rs1 rs2 rs3 => Sys2Proof.Machine.execAddmod rd rs1 rs2 rs3 s
  | .mulmod rd rs1 rs2 rs3 => Sys2Proof.Machine.execMulmod rd rs1 rs2 rs3 s
  | .sdiv rd rs1 rs2 => Sys2Proof.Machine.execSdiv rd rs1 rs2 s
  | .smod rd rs1 rs2 => Sys2Proof.Machine.execSmod rd rs1 rs2 s
  -- 45_shift.md
  | .lsh rd rs1 rs2 => Sys2Proof.Machine.execLsh rd rs1 rs2 s
  | .rsh rd rs1 rs2 => Sys2Proof.Machine.execRsh rd rs1 rs2 s
  | .srsh rd rs1 rs2 => Sys2Proof.Machine.execSrsh rd rs1 rs2 s
  -- 46_compare.md
  | .lt rd rs1 rs2 => Sys2Proof.Machine.execLt rd rs1 rs2 s
  | .gt rd rs1 rs2 => Sys2Proof.Machine.execGt rd rs1 rs2 s
  | .slt rd rs1 rs2 => Sys2Proof.Machine.execSlt rd rs1 rs2 s
  | .sgt rd rs1 rs2 => Sys2Proof.Machine.execSgt rd rs1 rs2 s
  | .cmp rd rs1 rs2 => Sys2Proof.Machine.execCmp rd rs1 rs2 s
  -- 47_sign.md
  | .sign rd rs1 => Sys2Proof.Machine.execSign rd rs1 s
  | .abs rd rs1 => Sys2Proof.Machine.execAbs rd rs1 s
  | .neg rd rs1 => Sys2Proof.Machine.execNeg rd rs1 s
  -- 48_exp.md
  | .exp rd rs1 rs2 => Sys2Proof.Machine.execExp rd rs1 rs2 s

end Sys2Proof.Machine
end

