-- ==== Sys2Proof/Machine/HostPort.lean ====
section
/-! DEFINITION. What an action of the environment does to the core: the host register window (20_memory.md R64 to
R69, R73), the acceptance and completion of commands (70_reset_and_hazards.md R285), and reset (R280 to R282). -/

namespace Sys2Proof.Machine

/-! ### Bus data -/

/-- The width of data on the host bus. -/
def BusData.width : BusData → Width
  | .b8 _ => .w8
  | .b16 _ => .w16
  | .b32 _ => .w32

/-- Zero at a width: what a reserved offset reads as (20_memory.md R68). -/
def zeroData : Width → BusData
  | .w8 => .b8 0
  | .w16 => .b16 0
  | .w32 => .b32 0

/-! ### The window map (20_memory.md R64) -/

/-- The window offset of CMD (20_memory.md R64). -/
@[simp] abbrev cmdOffset : Nat := 0x00

/-- The window offset of STATUS (20_memory.md R64). -/
@[simp] abbrev statusOffset : Nat := 0x04

/-- The first reserved offset (20_memory.md R64). -/
@[simp] abbrev reservedOffset : Nat := 0x08

/-- The window offset of DBUF[0] (20_memory.md R64). -/
@[simp] abbrev dbufOffset : Nat := 0x40

/-! ### Acceptance and completion of a command -/

/-- The environment's next action lands while the command just accepted is still in progress (log entry 2). -/
def State.overlapNext (s : State) : Bool :=
  match s.host with
  | [] => false
  | a :: _ => a.whileBusy

/-- An accepted word: decoded, and where it is legal run from acceptance to completion as one atomic step, or
accepted only, where the environment's next action lands while BUSY = 1
(30_encoding.md R99; 60_exceptions.md R255; 70_reset_and_hazards.md R285; log entry 3). -/
def acceptWord (w : CmdWord) (s : State) : Result :=
  match decode w with
  | .error e => .next (s.raiseIllegal e)
  | .ok i => if s.overlapNext then .next (s.accept i) else exec i s

/-- Completion of the command in progress: BUSY <- 0 and all its writes commit together
(70_reset_and_hazards.md R285; 20_memory.md R72). -/
def complete (i : Instr) (s : State) : Result := exec i s.release

/-! ### Host accesses inside the window -/

/-- A 32-bit write to CMD: delivered, or dropped while BUSY = 1 (10_state.md R45; 60_exceptions.md R257). -/
def writeCmd (w : CmdWord) (s : State) : Result :=
  if s.busy then .next (s.dropWrite .cmdBusy) else acceptWord w s

/-- An 8-bit write to DBUF[k]: stored, or dropped while BUSY = 1 (20_memory.md R66, R69). -/
def writeDbuf (k : Nat) (b : Byte) (s : State) : Result :=
  if s.busy then .next (s.dropWrite .dbufBusy) else .next (s.setDbufByte k b)

/-- A 32-bit read of STATUS; it takes a free draw for bit 1 while BUSY = 1 (10_state.md R39, R40, R44). -/
def readStatus (s : State) : Result :=
  let t := s.drive (.b32 s.statusWord)
  .next (if s.busy then t.nextDraw else t)

/-- An 8-bit read of DBUF[k]; a free draw while BUSY = 1 (20_memory.md R66, R69). -/
def readDbuf (k : Nat) (s : State) : Result :=
  if s.busy then .next (s.drive (.b8 (Config.busyByte s.draws))).nextDraw else .next (s.drive (.b8 (s.dbufByte k)))

/-- A host write at a window offset (20_memory.md R64 to R69). The offset decides the region (log entry 10). -/
def hostWrite (offset : Nat) (data : BusData) (s : State) : Result :=
  if offset < reservedOffset then
    match data with
    | .b32 v =>
      if offset = cmdOffset then writeCmd v s
      else if offset = statusOffset then .next (s.ackStatus v)
      else .refused .registerAccessWidth
    | .b8 _ | .b16 _ => .refused .registerAccessWidth
  else if offset < dbufOffset then .next s
  else
    match data with
    | .b8 b => writeDbuf (offset - dbufOffset) b s
    | .b16 _ | .b32 _ => .refused .dbufAccessWidth

/-- A host read at a window offset: CMD reads 0, reserved offsets read 0 at any width
(10_state.md R45; 20_memory.md R64 to R69). -/
def hostRead (offset : Nat) (width : Width) (s : State) : Result :=
  if offset < reservedOffset then
    match width with
    | .w32 =>
      if offset = cmdOffset then .next (s.drive (.b32 0))
      else if offset = statusOffset then readStatus s
      else .refused .registerAccessWidth
    | .w8 | .w16 => .refused .registerAccessWidth
  else if offset < dbufOffset then .next (s.drive (zeroData width))
  else
    match width with
    | .w8 => readDbuf (offset - dbufOffset) s
    | .w16 | .w32 => .refused .dbufAccessWidth

/-- The conditions every access meets before its offset is looked at: outside the window the core does not see it
(20_memory.md R67); while reset is asserted it is refused (70_reset_and_hazards.md R282); from another agent than the
one host it is refused (20_memory.md R79). -/
def guardAccess (offset : Nat) (agent : Agent) (s : State) (access : Result) : Result :=
  if Config.windowBytes ≤ offset then .next s
  else if s.resetHeld then .refused .accessDuringReset
  else
    match agent with
    | .another => .refused .secondHost
    | .theHost => access

/-- One action of the environment lands (60_exceptions.md R271). Releasing a reset that is not asserted is no edge
and does nothing (log entry 12). -/
def performAction (a : HostAction) (s : State) : Result :=
  match a.event with
  | .write offset data => guardAccess offset a.agent s (hostWrite offset data s)
  | .read offset width => guardAccess offset a.agent s (hostRead offset width s)
  | .assertReset => .next (s.resetTo true)
  | .releaseReset => .next (if s.resetHeld then s.resetTo false else s)

/-! ### The host actions of 30_encoding.md R102

Whether an action that no HWAIT precedes finds BUSY = 1 depends on `LAT`, which the spec leaves open. Each action below
takes that as its argument `early`. That it defaults to false, an action that lands after the command before it has
completed, is the model's choice (log entry 21). -/

/-- An access of the one host. -/
def byHost (whileBusy : Bool) (e : HostEvent) : HostAction := ⟨e, .theHost, whileBusy⟩

/-- `HW8 k, b` (30_encoding.md R102), landing after the command before it unless `early` (log entry 21). -/
def hw8 (k : Nat) (b : Byte) (early : Bool := false) : HostAction := byHost early (.write (dbufOffset + k) (.b8 b))

/-- `HR8 k` (30_encoding.md R102), landing after the command before it unless `early` (log entry 21). -/
def hr8 (k : Nat) (early : Bool := false) : HostAction := byHost early (.read (dbufOffset + k) .w8)

/-- `HCMD w` (30_encoding.md R102), landing after the command before it unless `early` (log entry 21). -/
def hcmd (w : CmdWord) (early : Bool := false) : HostAction := byHost early (.write cmdOffset (.b32 w))

/-- `HRS` (30_encoding.md R102), landing after the command before it unless `early` (log entry 21). -/
def hrs (early : Bool := false) : HostAction := byHost early (.read statusOffset .w32)

/-- `HWS v` (30_encoding.md R102), landing after the command before it unless `early` (log entry 21). -/
def hws (v : BitVec 32) (early : Bool := false) : HostAction := byHost early (.write statusOffset (.b32 v))

/-- `HWAIT` whose STATUS reads return BUSY = 1 `polls` times and then BUSY = 0 (30_encoding.md R102): how many it takes
depends on `LAT`. -/
def hwait (polls : Nat) : List HostAction := List.replicate polls (hrs (early := true)) ++ [hrs]

/-- A program line holding only a command: `HWAIT` then `HCMD` of its word (30_encoding.md R102). -/
def commandLine (polls : Nat) (i : Instr) : List HostAction := hwait polls ++ [hcmd (encode i)]

end Sys2Proof.Machine
end

