-- ==== Sys2Proof/Machine/Step.lean ====
section
/-! DEFINITION. One step of the machine and its environment, and where a word stands that the next step runs. -/

namespace Sys2Proof.Machine

/-- One step. With a command in progress, the environment's next action lands if it is one that lands while
BUSY = 1, and otherwise the command completes (70_reset_and_hazards.md R285, R286). With the core idle, the next
action lands (10_state.md R35: the order of the host's writes is the program order); with none pending, the idle core
keeps all its state (60_exceptions.md R270). -/
def step (s : State) : Host.Outcome State Fault Refusal :=
  match s.inFlight, s.host with
  | some i, [] => complete i s
  | some i, a :: rest => if a.whileBusy then performAction a (s.withHost rest) else complete i s
  | none, a :: rest => performAction a (s.withHost rest)
  | none, [] => .next s

/-- The pending actions with the first one landing after the command before it has completed. -/
def afterCompletion : List HostAction → List HostAction
  | [] => []
  | a :: rest => { a with whileBusy := false } :: rest

/-- `s` where the host's next action is the write of the row's word to CMD: the core idle and out of reset, the word
in front of what is pending, and nothing landing while that command is in progress. The next step runs exactly that
command (10_state.md R35, R45; log entries 1 and 18). -/
def State.withFetchWord (s : State) (nbits w : Nat) : State :=
  { s with
    inFlight := none
    resetHeld := false
    host := hcmd (tableWord nbits w) :: afterCompletion s.host }

end Sys2Proof.Machine
end

