-- ==== Sys2Proof/Machine/Assembler.lean ====
section
/-! DEFINITION. Assembly syntax and aliases (30_encoding.md R100, R101), over lines already split into a mnemonic
and its operands (log entry 19). -/

namespace Sys2Proof.Machine

/-- An operand as written: a register `x<k>` or a byte count (30_encoding.md R100). -/
inductive Operand where
  | x (k : Nat)
  | count (n : Nat)
deriving DecidableEq, Repr

/-- A register operand; outside x0..x15 it is rejected (30_encoding.md R100). -/
def regOperand? : Operand → Option Reg
  | .x k => if h : k < 16 then some ⟨k, h⟩ else none
  | .count _ => none

/-- A byte-count operand; outside 0..64 it is rejected (30_encoding.md R100). -/
def countOperand? : Operand → Option Nat
  | .count n => if n ≤ Config.dbufBytes then some n else none
  | .x _ => none

/-- How the operands of a mnemonic make a command, none where they do not fit its class. -/
abbrev Parser := List Operand → Option Instr

/-- `OP xd` or `OP xs1` (30_encoding.md R100, classes Z and ST). -/
def oneReg (mk : Reg → Instr) : Parser
  | [a] => (regOperand? a).map mk
  | _ => none

/-- `OP xd, xs1` (30_encoding.md R100, class UN). -/
def twoRegs (mk : Reg → Reg → Instr) : Parser
  | [d, a] => (regOperand? d).bind fun rd => (regOperand? a).map fun rs1 => mk rd rs1
  | _ => none

/-- `OP xd, xs1, xs2` (30_encoding.md R100, class BIN). -/
def threeRegs (mk : Reg → Reg → Reg → Instr) : Parser
  | [d, a, b] => (regOperand? d).bind fun rd => (regOperand? a).bind fun rs1 => (regOperand? b).map fun rs2 => mk rd rs1 rs2
  | _ => none

/-- `OP xd, xs1, xs2, xs3` (30_encoding.md R100, class TER). -/
def fourRegs (mk : Reg → Reg → Reg → Reg → Instr) : Parser
  | [d, a, b, m] =>
    (regOperand? d).bind fun rd => (regOperand? a).bind fun rs1 => (regOperand? b).bind fun rs2 =>
      (regOperand? m).map fun rs3 => mk rd rs1 rs2 rs3
  | _ => none

/-- `SETB xd, n` and `OP xs1, n` (30_encoding.md R100, classes LD and STN). -/
def regAndCount (mk : Reg → Nat → Instr) : Parser
  | [r, n] => (regOperand? r).bind fun x => (countOperand? n).map fun k => mk x k
  | _ => none

/-- Mnemonics of 30_encoding.md R98, opcodes 0x01 to 0x31. -/
def mnemonicsLow : List (String × Parser) :=
  [("CLR", oneReg .clr), ("MOV", twoRegs .mov), ("SETB", regAndCount .setb), ("B32", oneReg .b32),
   ("B20", oneReg .b20), ("WSLICE", regAndCount .wslice), ("PADB", regAndCount .padb), ("U64", twoRegs .u64),
   ("I64", twoRegs .i64), ("U64O", twoRegs .u64o), ("ISU64", twoRegs .isu64), ("ISU128", twoRegs .isu128),
   ("ADD", threeRegs .add), ("ADDO", threeRegs .addo), ("SUB", threeRegs .sub), ("SUBO", threeRegs .subo),
   ("SUB64", threeRegs .sub64), ("MUL", threeRegs .mul), ("SQR", twoRegs .sqr), ("DIV", threeRegs .div),
   ("MOD", threeRegs .mod)]

/-- Mnemonics of 30_encoding.md R98, opcodes 0x40 to 0x80. -/
def mnemonicsHigh : List (String × Parser) :=
  [("ADDMOD", fourRegs .addmod), ("MULMOD", fourRegs .mulmod), ("SDIV", threeRegs .sdiv), ("SMOD", threeRegs .smod),
   ("LSH", threeRegs .lsh), ("RSH", threeRegs .rsh), ("SRSH", threeRegs .srsh), ("LT", threeRegs .lt),
   ("GT", threeRegs .gt), ("SLT", threeRegs .slt), ("SGT", threeRegs .sgt), ("CMP", threeRegs .cmp),
   ("SIGN", twoRegs .sign), ("ABS", twoRegs .abs), ("NEG", twoRegs .neg), ("EXP", threeRegs .exp)]

/-- The aliases, each with the operands of the command it expands to (30_encoding.md R101). -/
def aliasRows : List (String × Parser) :=
  [("WTA32", oneReg .b32), ("WTA20", oneReg .b20), ("BYTES32", oneReg .b32), ("BYTES20", oneReg .b20),
   ("SETZERO", oneReg .clr), ("SQUARED", twoRegs .sqr), ("SETBYTES", regAndCount .setb)]

/-- A mnemonic without regard to case (30_encoding.md R100). -/
def upperChars (m : String) : List Char := m.toList.map Char.toUpper

/-- The command a line stands for, none where the assembler rejects it (30_encoding.md R100, R101). -/
def assemble (mnemonic : String) (operands : List Operand) : Option Instr :=
  ((mnemonicsLow ++ mnemonicsHigh ++ aliasRows).find? fun row => upperChars mnemonic == row.1.toList).bind
    fun row => row.2 operands

/-- The command word of a line (30_encoding.md R100, last column). -/
def assembleToWord (mnemonic : String) (operands : List Operand) : Option CmdWord :=
  (assemble mnemonic operands).map encode

end Sys2Proof.Machine
end

