-- ==== Sys2Proof/Machine/WordChain.lean ====
section
/-! DEFINITION. The word-level structure the spec gives the adder, the subtractor and the multiplier
(41_addsub.md R155; 42_multiply.md R165, R168). The meanings use the exact values; that the word chains give the
same values is stated as obligations. -/

namespace Sys2Proof.Machine

/-- Four words as one value, word 0 the least significant (00_scope.md R13). -/
def ofWords (w0 w1 w2 w3 : Word) : U256 := w3 ++ w2 ++ w1 ++ w0

/-- One position of the addition chain: the sum word and the carry out (41_addsub.md R155). -/
def addWord (p q : Word) (cin : Bool) : Word × Bool :=
  let t := p.toNat + q.toNat + cin.toNat
  (BitVec.ofNat 64 t, decide (t / 2 ^ 64 = 1))

/-- The addition chain over the four words and its carry out `c4` (41_addsub.md R155). -/
def addChain (a b : U256) : U256 × Bool :=
  let r0 := addWord (wordOf a 0) (wordOf b 0) false
  let r1 := addWord (wordOf a 1) (wordOf b 1) r0.2
  let r2 := addWord (wordOf a 2) (wordOf b 2) r1.2
  let r3 := addWord (wordOf a 3) (wordOf b 3) r2.2
  (ofWords r0.1 r1.1 r2.1 r3.1, r3.2)

/-- One position of the subtraction chain: the difference word and the borrow out (41_addsub.md R155). -/
def subWord (p q : Word) (bin : Bool) : Word × Bool :=
  let t : Int := (p.toNat : Int) - q.toNat - bin.toNat
  (BitVec.ofInt 64 t, decide (t < 0))

/-- The subtraction chain over the four words and its borrow out `b4` (41_addsub.md R155). -/
def subChain (a b : U256) : U256 × Bool :=
  let r0 := subWord (wordOf a 0) (wordOf b 0) false
  let r1 := subWord (wordOf a 1) (wordOf b 1) r0.2
  let r2 := subWord (wordOf a 2) (wordOf b 2) r1.2
  let r3 := subWord (wordOf a 3) (wordOf b 3) r2.2
  (ofWords r0.1 r1.1 r2.1 r3.1, r3.2)

/-- `mac(p, q, s, c) = p*q + s + c` as a high and a low word (42_multiply.md R165). -/
def mac (p q s c : Word) : Word × Word :=
  let t := p.toNat * q.toNat + s.toNat + c.toNat
  (BitVec.ofNat 64 (t / 2 ^ 64), BitVec.ofNat 64 (t % 2 ^ 64))

/-- One row of the schoolbook product: the words of `a` times `q`, added to the window `r`, with the carry chained
through; the row's words and its last carry (42_multiply.md R168). -/
def macRow : (a : List Word) → (q : Word) → (r : List Word) → (c : Word) → List Word × Word
  | p :: ps, q, s :: ss, c =>
    let m := mac p q s c
    let row := macRow ps q ss m.1
    (m.2 :: row.1, row.2)
  | _, _, _, c => ([], c)

/-- The schoolbook product of the words of `a` by the remaining words of `b`, on the window `r`: each row fixes one
more low word of the result and moves the window up by one word (42_multiply.md R168). -/
def schoolbook (a : List Word) : (b : List Word) → (r : List Word) → List Word
  | [], r => r
  | q :: qs, r =>
    let row := macRow a q r 0#64
    match row.1 with
    | [] => schoolbook a qs [row.2]
    | lo :: hi => lo :: schoolbook a qs (hi ++ [row.2])

/-- The four words of a value, least significant first (00_scope.md R13). -/
def wordsOf (a : U256) : List Word := [wordOf a 0, wordOf a 1, wordOf a 2, wordOf a 3]

/-- The natural a list of words stands for, least significant word first (00_scope.md R13). -/
def wordsValue : List Word → Nat
  | [] => 0
  | w :: ws => w.toNat + 2 ^ 64 * wordsValue ws

/-- The eight words r0..r7 of the full product (42_multiply.md R168). -/
def umulWords (a b : U256) : List Word := schoolbook (wordsOf a) (wordsOf b) [0#64, 0#64, 0#64, 0#64]

end Sys2Proof.Machine
end

