-- ==== Sys2Proof/Safety.lean ====
section
/-! DEFINITION. What counts as a safe run, the invariant of the machine, and the terms the claims use: what a command
leaves unchanged. -/

namespace Sys2Proof.Machine

/-! ### Safe runs -/

/-- No fault of the run has been recorded (60_exceptions.md R256). -/
def State.safe (s : State) : Bool := !s.runFault

/-- What is observed of a state: the registers, C, STATUS and DBUF (70_reset_and_hazards.md R294). A DBUF byte not
written since reset shows as none: the rule does not say what it holds. -/
structure Observed where
  regs : Vector U256 16
  c : Bool
  status : BitVec 32
  dbuf : List (Option Byte)
deriving DecidableEq, Repr

/-- What is observed of `s` (70_reset_and_hazards.md R294). -/
def State.observed (s : State) : Observed :=
  ⟨s.regs, s.c, s.statusWord, (List.range Config.dbufBytes).map (Memory.byte? s.dbuf)⟩

/-- The action is the one host's read of STATUS. -/
def HostAction.readsStatus (a : HostAction) : Bool :=
  decide (a.event = .read statusOffset .w32) && decide (a.agent = .theHost)

/-- The run of a host program ends with the next step: all that is left of it is the host's read of STATUS, and that
read lands now, is answered, and returns BUSY = 0 (70_reset_and_hazards.md R294). -/
def State.atFinalRead (s : State) : Bool :=
  match s.host with
  | [a] => a.readsStatus && !s.busy && !s.resetHeld
  | [] | _ :: _ :: _ => false

/-- The observed final state of a run that is at its final read, and none of a run that is not
(70_reset_and_hazards.md R294: "at that read"). -/
def State.finalState? (s : State) : Option Observed := if s.atFinalRead then some s.observed else none

/-- The access the spec gives a meaning to, at any time reset is not asserted (20_memory.md R65, R66, R79;
60_exceptions.md R271). -/
def HostAction.permitted (a : HostAction) : Bool :=
  match a.event with
  | .write offset d =>
    decide (Config.windowBytes ≤ offset) ||
      (decide (a.agent = .theHost) &&
        (if offset < reservedOffset then
          decide (d.width = .w32) && (decide (offset = cmdOffset) || decide (offset = statusOffset))
        else decide (offset < dbufOffset) || decide (d.width = .w8)))
  | .read offset w =>
    decide (Config.windowBytes ≤ offset) ||
      (decide (a.agent = .theHost) &&
        (if offset < reservedOffset then
          decide (w = .w32) && (decide (offset = cmdOffset) || decide (offset = statusOffset))
        else decide (offset < dbufOffset) || decide (w = .w8)))
  | .assertReset | .releaseReset => true

/-- The action is an access, not a change of the reset input. -/
def HostAction.isAccess (a : HostAction) : Bool :=
  match a.event with
  | .write _ _ | .read _ _ => true
  | .assertReset | .releaseReset => false

/-- The action keeps the one timing rule software must respect: it writes CMD or a DBUF byte only after BUSY = 0
(70_reset_and_hazards.md R289 (a), (b)). -/
def HostAction.waitsOutBusy (a : HostAction) : Bool :=
  match a.event with
  | .write offset _ => !a.whileBusy || !(decide (offset = cmdOffset) || decide (dbufOffset ≤ offset))
  | .read _ _ | .assertReset | .releaseReset => true

/-! ### The invariant -/

/-- What holds of every state a run from reset meets: DBUF is in canonical form; the command in progress is one the
decoder gives; CAUSE is NONE exactly while neither sticky bit is set (10_state.md R43); a set sticky bit is recorded
as a fault of the run (60_exceptions.md R256); no command is in progress while reset is asserted
(70_reset_and_hazards.md R281). -/
structure State.Inv (s : State) : Prop where
  dbuf_wf : Memory.wf s.dbuf = true
  inFlight_wf : ∀ i, s.inFlight = some i → i.wf = true
  cause_none : s.cause = .noError ↔ s.ill = false ∧ s.ovr = false
  sticky_recorded : s.ill = true ∨ s.ovr = true → s.runFault = true
  reset_idle : s.resetHeld = true → s.inFlight = none

/-! ### What a command leaves unchanged -/

/-- Every register but those of `ds` is unchanged. -/
def KeepsRegsBut (ds : List Reg) (s t : State) : Prop := ∀ r, r ∉ ds → t.reg r = s.reg r

/-- Every DBUF byte but `DBUF[addr .. addr+k-1]` reads as before. -/
def KeepsDbufBut (addr k : Nat) (s t : State) : Prop :=
  ∀ a, a < addr ∨ addr + k ≤ a → t.dbufByte a = s.dbufByte a

/-- Every DBUF byte reads as before. -/
def KeepsDbuf (s t : State) : Prop := ∀ a, t.dbufByte a = s.dbufByte a

/-- STATUS but for bit 1: BUSY (and the command behind it), ILL, OVR and CAUSE are unchanged. -/
def KeepsStatus (s t : State) : Prop :=
  t.inFlight = s.inFlight ∧ t.ill = s.ill ∧ t.ovr = s.ovr ∧ t.cause = s.cause

/-- The reset input, the environment's list and the model's own fields are unchanged. -/
def KeepsEnvironment (s t : State) : Prop :=
  t.resetHeld = s.resetHeld ∧ t.host = s.host ∧ t.readData = s.readData ∧ t.runFault = s.runFault ∧
    t.resets = s.resets ∧ t.draws = s.draws

/-- A command that writes C and nothing outside the registers `ds`. -/
def WritesRegsAndC (ds : List Reg) (s t : State) : Prop :=
  KeepsRegsBut ds s t ∧ KeepsDbuf s t ∧ KeepsStatus s t ∧ KeepsEnvironment s t

/-- A command that writes nothing outside the registers `ds`: C is unchanged too. -/
def WritesRegs (ds : List Reg) (s t : State) : Prop := WritesRegsAndC ds s t ∧ t.c = s.c

/-- A command that writes nothing outside `DBUF[addr .. addr+k-1]`. -/
def WritesDbuf (addr k : Nat) (s t : State) : Prop :=
  KeepsRegsBut [] s t ∧ t.c = s.c ∧ KeepsDbufBut addr k s t ∧ KeepsStatus s t ∧ KeepsEnvironment s t

/-- The registers, C and every DBUF byte are unchanged: what a command can compute from and into. -/
def KeepsData (s t : State) : Prop := (∀ r, t.reg r = s.reg r) ∧ t.c = s.c ∧ KeepsDbuf s t

/-- The two states agree in all a command reads: the registers and what every DBUF byte reads as. -/
def SameSources (s t : State) : Prop := (∀ r, s.reg r = t.reg r) ∧ (∀ a, s.dbufByte a = t.dbufByte a)

/-! ### Which action the next step takes -/

/-- The next step is the landing of the action `a`: it is first in the list, and either no command is in progress or
the action lands while one is. -/
def Lands (a : HostAction) (rest : List HostAction) (s : State) : Prop :=
  s.host = a :: rest ∧ (s.inFlight = none ∨ a.whileBusy = true)

/-- The next step is the one host's access `e`, made while reset is not asserted. -/
def HostLands (e : HostEvent) (early : Bool) (rest : List HostAction) (s : State) : Prop :=
  Lands ⟨e, .theHost, early⟩ rest s ∧ s.resetHeld = false

/-- The next step is the acceptance of the command word `w`: written to CMD by the one host while BUSY = 0
(00_scope.md R18 "Accepted"). -/
def Accepts (w : CmdWord) (rest : List HostAction) (s : State) : Prop :=
  (∃ early, HostLands (.write cmdOffset (.b32 w)) early rest s) ∧ s.inFlight = none

/-- The commands that write C (10_state.md R37). -/
def writesC : Instr → Bool
  | .addo _ _ _ | .subo _ _ _ | .u64o _ _ | .isu64 _ _ | .isu128 _ _ => true
  | .lt _ _ _ | .gt _ _ _ | .slt _ _ _ | .sgt _ _ _ => true
  | .clr _ | .mov _ _ | .setb _ _ | .b32 _ | .b20 _ | .wslice _ _ | .padb _ _ | .u64 _ _ | .i64 _ _ => false
  | .add _ _ _ | .sub _ _ _ | .sub64 _ _ _ | .mul _ _ _ | .sqr _ _ | .div _ _ _ | .mod _ _ _ => false
  | .addmod _ _ _ _ | .mulmod _ _ _ _ | .sdiv _ _ _ | .smod _ _ _ => false
  | .lsh _ _ _ | .rsh _ _ _ | .srsh _ _ _ | .cmp _ _ _ => false
  | .sign _ _ | .abs _ _ | .neg _ _ | .exp _ _ _ => false

/-- The registers a command may write: its rd, and for SDIV and SMOD the sources it writes back
(10_state.md R32; 44_modular.md R200). -/
def writtenRegs : Instr → List Reg
  | .b32 _ | .b20 _ | .wslice _ _ | .padb _ _ => []
  | .clr rd | .setb rd _ => [rd]
  | .mov rd _ | .u64 rd _ | .i64 rd _ | .u64o rd _ | .isu64 rd _ | .isu128 rd _ => [rd]
  | .sqr rd _ | .sign rd _ | .abs rd _ | .neg rd _ => [rd]
  | .sdiv rd rs1 rs2 | .smod rd rs1 rs2 => [rd, rs1, rs2]
  | .addmod rd _ _ _ | .mulmod rd _ _ _ => [rd]
  | .add rd _ _ | .addo rd _ _ | .sub rd _ _ | .subo rd _ _ | .sub64 rd _ _ => [rd]
  | .mul rd _ _ | .div rd _ _ | .mod rd _ _ => [rd]
  | .lsh rd _ _ | .rsh rd _ _ | .srsh rd _ _ => [rd]
  | .lt rd _ _ | .gt rd _ _ | .slt rd _ _ | .sgt rd _ _ | .cmp rd _ _ | .exp rd _ _ => [rd]

/-- How many bytes of DBUF, from the first of them, a command may write, and where they begin
(40_conversion.md R121, R125 to R128). -/
def writtenBytes : Instr → Nat × Nat
  | .b32 _ => (0, 32)
  | .b20 _ => (0, 20)
  | .wslice _ n => if 32 ≤ n then (n - 32, 32) else (0, n)
  | .padb _ n => (0, n)
  | .clr _ | .mov _ _ | .setb _ _ | .u64 _ _ | .i64 _ _ | .u64o _ _ | .isu64 _ _ | .isu128 _ _ => (0, 0)
  | .add _ _ _ | .addo _ _ _ | .sub _ _ _ | .subo _ _ _ | .sub64 _ _ _ => (0, 0)
  | .mul _ _ _ | .sqr _ _ | .div _ _ _ | .mod _ _ _ => (0, 0)
  | .addmod _ _ _ _ | .mulmod _ _ _ _ | .sdiv _ _ _ | .smod _ _ _ => (0, 0)
  | .lsh _ _ _ | .rsh _ _ _ | .srsh _ _ _ => (0, 0)
  | .lt _ _ _ | .gt _ _ _ | .slt _ _ _ | .sgt _ _ _ | .cmp _ _ _ => (0, 0)
  | .sign _ _ | .abs _ _ | .neg _ _ | .exp _ _ _ => (0, 0)

end Sys2Proof.Machine
end

