-- ==== Sys2Proof/Certificates/Slice0/Obligations.lean ====
section
/-! DEFINITION. The statements for the provers. Each docstring names the rules of spec/ it formalises. -/

open Sys2Proof Sys2Proof.Machine

/-! ### Encoding (30_encoding.md) -/

/-- The seven example words of R100, read by the decoder. -/
def Obligations.ExampleWordsDecode : Prop :=
  decode 0x01300000#32 = .ok (.clr 3) ∧ decode 0x72120000#32 = .ok (.neg 1 2) ∧
  decode 0x10123000#32 = .ok (.add 1 2 3) ∧ decode 0x41123400#32 = .ok (.mulmod 1 2 3 4) ∧
  decode 0x03100020#32 = .ok (.setb 1 32) ∧ decode 0x04050000#32 = .ok (.b32 5) ∧
  decode 0x07050028#32 = .ok (.padb 5 40)

/-- Decoding the word of a well-formed command gives the command back, every operand at every value (R91, R92, R98). -/
def Obligations.DecodeOfEncodeGivesBack : Prop := ∀ i : Instr, i.wf = true → decode (encode i) = .ok i

/-- A word the decoder reads is a well-formed command's own word: no two words decode to one command, and no bit of a
word is dropped (R92, R96, R99). -/
def Obligations.EncodeOfDecodeGivesBack : Prop :=
  ∀ (w : CmdWord) (i : Instr), decode w = .ok i → i.wf = true ∧ encode i = w

/-- The opcodes R95 calls illegal, as it lists them. -/
def Sys2Proof.Machine.UnlistedOpcode (op : Nat) : Prop :=
  op = 0x00 ∨ (0x0D ≤ op ∧ op ≤ 0x0F) ∨ (0x15 ≤ op ∧ op ≤ 0x1F) ∨ (0x22 ≤ op ∧ op ≤ 0x2F) ∨
  (0x32 ≤ op ∧ op ≤ 0x3F) ∨ (0x44 ≤ op ∧ op ≤ 0x4F) ∨ (0x53 ≤ op ∧ op ≤ 0x5F) ∨ (0x65 ≤ op ∧ op ≤ 0x6F) ∨
  (0x73 ≤ op ∧ op ≤ 0x7F) ∨ (0x81 ≤ op ∧ op ≤ 0xFF)

/-- R95: exactly the words whose bits 31:24 are an unlisted opcode get the verdict UNDEF_OPCODE, the all-zeros word
among them, and accepting such a word raises IllegalCommand(UNDEF_OPCODE). -/
def Obligations.UnlistedOpcodesAreIllegal : Prop :=
  (∀ w : CmdWord, decode w = .error .undefOpcode ↔ UnlistedOpcode (w.toNat / 2 ^ 24)) ∧
  decode 0#32 = .error .undefOpcode ∧
  ∀ (w : CmdWord) (rest : List HostAction) (s : State), Accepts w rest s → UnlistedOpcode (w.toNat / 2 ^ 24) →
    ∃ t, step s = .next t ∧ t.ill = true ∧ t.cause = .undefOpcode ∧ KeepsData s t ∧ t.inFlight = none

/-- Some field that the class reserves is non-zero (R92, third column), the fields as R91 places them. -/
def Sys2Proof.Machine.ReservedNonZero (k : OpClass) (w : CmdWord) : Prop :=
  let rd := w.toNat / 2 ^ 20 % 16
  let rs1 := w.toNat / 2 ^ 16 % 16
  let rs2 := w.toNat / 2 ^ 12 % 16
  let rs3 := w.toNat / 2 ^ 8 % 16
  let imm8 := w.toNat % 256
  match k with
  | .z => rs1 ≠ 0 ∨ rs2 ≠ 0 ∨ rs3 ≠ 0 ∨ imm8 ≠ 0
  | .un => rs2 ≠ 0 ∨ rs3 ≠ 0 ∨ imm8 ≠ 0
  | .bin => rs3 ≠ 0 ∨ imm8 ≠ 0
  | .ter => imm8 ≠ 0
  | .ld => rs1 ≠ 0 ∨ rs2 ≠ 0 ∨ rs3 ≠ 0
  | .st => rd ≠ 0 ∨ rs2 ≠ 0 ∨ rs3 ≠ 0 ∨ imm8 ≠ 0
  | .stn => rd ≠ 0 ∨ rs2 ≠ 0 ∨ rs3 ≠ 0

/-- R96: a word with a listed opcode and a non-zero reserved field of its class, and among the words with listed
opcodes no other, gets the verdict RESERVED_FIELD; accepting such a word raises IllegalCommand(RESERVED_FIELD).
`opcodeByte i` runs over the listed opcodes, `classOf i` is the class of each. -/
def Obligations.NonZeroReservedFieldsAreIllegal : Prop :=
  ∀ (i : Instr) (w : CmdWord), w.toNat / 2 ^ 24 = (opcodeByte i).toNat →
    (decode w = .error .reservedField ↔ ReservedNonZero (classOf i) w) ∧
    ∀ (rest : List HostAction) (s : State), Accepts w rest s → ReservedNonZero (classOf i) w →
      ∃ t, step s = .next t ∧ t.ill = true ∧ t.cause = .reservedField ∧ KeepsData s t ∧ t.inFlight = none

/-- R97: a SETB, WSLICE or PADB word whose reserved fields are zero gets the verdict LENGTH_RANGE exactly when its
imm8 exceeds 64, and accepting it then raises IllegalCommand(LENGTH_RANGE). -/
def Obligations.LengthsAbove64AreIllegal : Prop :=
  ∀ (r : Reg) (n : Nat) (w : CmdWord), n < 256 →
    (w.toNat = 0x03 * 2 ^ 24 + r.val * 2 ^ 20 + n ∨ w.toNat = 0x06 * 2 ^ 24 + r.val * 2 ^ 16 + n ∨
      w.toNat = 0x07 * 2 ^ 24 + r.val * 2 ^ 16 + n) →
    (decode w = .error .lengthRange ↔ 64 < n) ∧
    ∀ (rest : List HostAction) (s : State), Accepts w rest s → 64 < n →
      ∃ t, step s = .next t ∧ t.ill = true ∧ t.cause = .lengthRange ∧ KeepsData s t ∧ t.inFlight = none

/-- R101: each alias expands to exactly one command, the one its row names, for every operand R100 allows. -/
def Obligations.AliasesExpandToOneCommand : Prop :=
  ∀ (r q : Reg) (n : Nat), n ≤ 64 →
    assemble "WTA32" [.x r.val] = some (.b32 r) ∧ assemble "WTA20" [.x r.val] = some (.b20 r) ∧
    assemble "BYTES32" [.x r.val] = some (.b32 r) ∧ assemble "BYTES20" [.x r.val] = some (.b20 r) ∧
    assemble "SETZERO" [.x r.val] = some (.clr r) ∧ assemble "SQUARED" [.x r.val, .x q.val] = some (.sqr r q) ∧
    assemble "SETBYTES" [.x r.val, .count n] = some (.setb r n)

/-! ### Reset (70_reset_and_hazards.md) -/

/-- R34, R280 at `State.reset`: every register 0, C = 0, STATUS = 0x00000000, and no DBUF byte holds a written value. -/
def Obligations.ResetStateHoldsResetValues : Prop :=
  (∀ r, State.reset.reg r = 0#256) ∧ State.reset.c = false ∧ State.reset.statusWord = 0#32 ∧
  ∀ a, Memory.byte? State.reset.dbuf a = none

/-- R280, R281: whatever state the core is in, a command in progress or not, asserting the reset input gives every
register 0, C = 0, STATUS = 0, no command in progress and no written DBUF byte; releasing it gives the same. -/
def Obligations.ResetGivesResetValuesAndAbandonsCommand : Prop :=
  ∀ (ag : Agent) (early : Bool) (rest : List HostAction) (s : State),
    (Lands ⟨.assertReset, ag, early⟩ rest s ∨ (Lands ⟨.releaseReset, ag, early⟩ rest s ∧ s.resetHeld = true)) →
    ∃ t, step s = .next t ∧ (∀ r, t.reg r = 0#256) ∧ t.c = false ∧ t.statusWord = 0#32 ∧ t.inFlight = none ∧
      (∀ a, Memory.byte? t.dbuf a = none) ∧ t.host = rest ∧
      (t.resetHeld = true ↔ s.host = ⟨.assertReset, ag, early⟩ :: rest)

/-- An access inside the window is refused while reset is asserted (R282), and refused from a second agent when it is
not (R79); an access outside the window is not seen by the core, which keeps all its state (R67, log entry 11). -/
def Obligations.ForbiddenAndForeignAccesses : Prop :=
  ∀ (e : HostEvent) (offset : Nat) (ag : Agent) (early : Bool) (rest : List HostAction) (s : State),
    ((∃ d, e = .write offset d) ∨ ∃ w, e = .read offset w) → Lands ⟨e, ag, early⟩ rest s →
    (offset < 0x80 → s.resetHeld = true → step s = .refused .accessDuringReset) ∧
    (offset < 0x80 → s.resetHeld = false → ag = .another → step s = .refused .secondHost) ∧
    (0x80 ≤ offset → step s = .next { s with host := rest })

/-! ### Acceptance, execution, completion -/

/-- The step of an idle core whose next action is the write of a legal word to CMD, when nothing lands while the
command is in progress: exactly the effect of the decoded command, on the state with that action taken (R45, R285). -/
def Obligations.StepRunsTheDecodedCommand : Prop :=
  ∀ (w : CmdWord) (i : Instr) (rest : List HostAction) (s : State), Accepts w rest s → decode w = .ok i →
    (∀ a ∈ rest.head?, a.whileBusy = false) → step s = exec i { s with host := rest }

/-- When the next action lands while the command is in progress, the same write is acceptance only: BUSY becomes 1
and nothing else changes; and the completion step is the command's whole effect with BUSY = 0 (R41, R285). -/
def Obligations.AcceptanceThenCompletion : Prop :=
  (∀ (w : CmdWord) (i : Instr) (a : HostAction) (rest : List HostAction) (s : State),
    Accepts w (a :: rest) s → decode w = .ok i → a.whileBusy = true →
    step s = .next { s with host := a :: rest, inFlight := some i }) ∧
  (∀ (i : Instr) (s : State), s.inFlight = some i → (∀ a ∈ s.host.head?, a.whileBusy = false) →
    step s = exec i { s with inFlight := none })

/-- An illegal command word sets ILL to 1 and CAUSE to its cause, changes no register, no DBUF byte, not C and not OVR,
does not set BUSY, and leaves the host's next action to come at once (R255). It is recorded as a fault of the run
(R256): the field `runFault` is the model's own form of that record (log entry 9). -/
def Obligations.IllegalCommandOnlySetsIllAndCause : Prop :=
  ∀ (w : CmdWord) (e : DecodeError) (rest : List HostAction) (s : State), Accepts w rest s → decode w = .error e →
    ∃ t, step s = .next t ∧ t.ill = true ∧ t.cause = causeOf e ∧ KeepsData s t ∧ t.inFlight = none ∧
      t.ovr = s.ovr ∧ t.host = rest ∧ t.resetHeld = false ∧ t.readData = s.readData ∧ t.runFault = true

/-- R257: while BUSY = 1, a write to CMD and a byte write to DBUF are dropped: OVR becomes 1, CAUSE 4 or 5, and
nothing else of the core changes, the command in progress included. -/
def Obligations.WritesWhileBusyAreDropped : Prop :=
  ∀ (i : Instr) (rest : List HostAction) (s : State), s.inFlight = some i →
    (∀ w, HostLands (.write 0x00 (.b32 w)) true rest s →
      ∃ t, step s = .next t ∧ t.ovr = true ∧ t.cause.code = 4#4 ∧ t.ill = s.ill ∧ KeepsData s t ∧
        t.inFlight = some i ∧ t.host = rest) ∧
    (∀ k b, k < 64 → HostLands (.write (0x40 + k) (.b8 b)) true rest s →
      ∃ t, step s = .next t ∧ t.ovr = true ∧ t.cause.code = 5#4 ∧ t.ill = s.ill ∧ KeepsData s t ∧
        t.inFlight = some i ∧ t.host = rest)

/-- A write of v to STATUS (R42, R43, R44), BUSY or not, clears ILL where v has bit 2 and OVR where v has bit 3, clears
CAUSE exactly when both end 0, and changes nothing else. -/
def Obligations.StatusWriteAcknowledgesErrors : Prop :=
  ∀ (v : BitVec 32) (early : Bool) (rest : List HostAction) (s : State),
    HostLands (.write 0x04 (.b32 v)) early rest s →
    ∃ t, step s = .next t ∧
      (t.ill = true ↔ s.ill = true ∧ v.toNat / 4 % 2 = 0) ∧ (t.ovr = true ↔ s.ovr = true ∧ v.toNat / 8 % 2 = 0) ∧
      (t.ill = false ∧ t.ovr = false → t.cause.code = 0#4) ∧ (t.ill = true ∨ t.ovr = true → t.cause = s.cause) ∧
      KeepsData s t ∧ t.inFlight = s.inFlight ∧ t.host = rest ∧ t.readData = s.readData ∧ t.runFault = s.runFault

/-- A read of STATUS (R39, R40) gives BUSY, C, ILL, OVR and CAUSE at their bits and 0 in bits 31:8. Bit 1 is C while
BUSY = 0, and some bit, which nothing fixes, while BUSY = 1. The read changes nothing of the core (R44). -/
def Obligations.StatusReadGivesItsFields : Prop :=
  ∀ (early : Bool) (rest : List HostAction) (s : State), HostLands (.read 0x04 .w32) early rest s →
    ∃ t v bit1, step s = .next t ∧ t.readData = .b32 v ∧ (s.busy = false → bit1 = s.c) ∧
      v.toNat = s.busy.toNat + 2 * bit1.toNat + 4 * s.ill.toNat + 8 * s.ovr.toNat + 16 * s.cause.code.toNat ∧
      KeepsData s t ∧ KeepsStatus s t ∧ t.host = rest ∧ t.runFault = s.runFault

/-- Reserved offsets read 0 at every width and ignore writes at every width (R68); CMD reads 0 (R45). No effect on any
state of the core, BUSY or not. That an access which begins at a reserved offset and reaches past 0x3F counts as
reserved is the model's choice (log entry 10). -/
def Obligations.ReservedOffsetsReadZeroIgnoreWrites : Prop :=
  ∀ (early : Bool) (rest : List HostAction) (s : State),
    (∀ offset d, 0x08 ≤ offset → offset ≤ 0x3F → HostLands (.write offset d) early rest s →
      step s = .next { s with host := rest }) ∧
    (∀ offset w, 0x08 ≤ offset → offset ≤ 0x3F → HostLands (.read offset w) early rest s →
      step s = .next { s with host := rest, readData := zeroData w }) ∧
    (HostLands (.read 0x00 .w32) early rest s → step s = .next { s with host := rest, readData := .b32 0#32 })

/-- R66, R69: with BUSY = 0, a byte write at 0x40 + k sets DBUF[k] alone and a byte read there returns DBUF[k]. With
BUSY = 1, a byte read there returns some byte, which nothing fixes, and has no side effect, and a byte write there is
dropped, changes no byte and sets OVR with CAUSE = 5. An access wider than 8 bits at 0x40..0x7F is refused. -/
def Obligations.DbufWindowAccess : Prop :=
  ∀ (k : Nat) (early : Bool) (rest : List HostAction) (s : State), k < 64 →
    (∀ b, s.inFlight = none → HostLands (.write (0x40 + k) (.b8 b)) early rest s →
      ∃ t, step s = .next t ∧ t.dbufByte k = b ∧ KeepsDbufBut k 1 s t ∧ (∀ r, t.reg r = s.reg r) ∧ t.c = s.c ∧
        KeepsStatus s t ∧ t.host = rest) ∧
    (s.inFlight = none → HostLands (.read (0x40 + k) .w8) early rest s →
      ∃ t, step s = .next t ∧ t.readData = .b8 (s.dbufByte k) ∧ KeepsData s t ∧ KeepsStatus s t ∧ t.host = rest) ∧
    (s.inFlight.isSome = true → HostLands (.read (0x40 + k) .w8) early rest s →
      ∃ t b, step s = .next t ∧ t.readData = .b8 b ∧ KeepsData s t ∧ KeepsStatus s t ∧ t.host = rest ∧
        t.runFault = s.runFault) ∧
    (∀ b, s.inFlight.isSome = true → HostLands (.write (0x40 + k) (.b8 b)) early rest s →
      ∃ t, step s = .next t ∧ t.ovr = true ∧ t.cause.code = 5#4 ∧ t.ill = s.ill ∧ KeepsData s t ∧
        t.inFlight = s.inFlight ∧ t.host = rest) ∧
    (∀ d, d.width ≠ .w8 → HostLands (.write (0x40 + k) d) early rest s → step s = .refused .dbufAccessWidth) ∧
    (∀ w, w ≠ .w8 → HostLands (.read (0x40 + k) w) early rest s → step s = .refused .dbufAccessWidth)

/-- R65: at offsets 0x00..0x07, an access that is not 32 bits wide or not at 0x00 or 0x04 is refused, and a 32-bit
access at 0x00 or 0x04 is not. -/
def Obligations.RegisterAccessesAreAlignedWords : Prop :=
  ∀ (offset : Nat) (early : Bool) (rest : List HostAction) (s : State), offset < 8 →
    (∀ d, HostLands (.write offset d) early rest s →
      (step s = .refused .registerAccessWidth ↔ ¬ (d.width = .w32 ∧ offset % 4 = 0))) ∧
    (∀ w, HostLands (.read offset w) early rest s →
      (step s = .refused .registerAccessWidth ↔ ¬ (w = .w32 ∧ offset % 4 = 0)))

/-- Host accesses that land while a command is in progress leave the registers, C, DBUF and the command itself as
they are: what the command reads at completion is the snapshot of its acceptance (R48, R69, R72; log entry 4). -/
def Obligations.AccessesWhileBusyKeepTheSnapshot : Prop :=
  ∀ (i : Instr) (a : HostAction) (rest : List HostAction) (s : State), s.inFlight = some i → s.resetHeld = false →
    s.host = a :: rest → a.whileBusy = true → a.isAccess = true → a.permitted = true →
    ∃ t, step s = .next t ∧ t.inFlight = some i ∧ KeepsData s t ∧ t.host = rest ∧ t.resetHeld = false ∧
      t.resets = s.resets

/-- A command accepted with any number of host accesses landing while it is in progress ends with the same registers,
C and DBUF as the command run as one atomic step, with BUSY = 0 (R72, R76, R285). -/
def Obligations.OverlappedCommandRefinesAtomicCommand : Prop :=
  ∀ (w : CmdWord) (i : Instr) (early rest : List HostAction) (s : State),
    Accepts w (early ++ rest) s → decode w = .ok i →
    (∀ a ∈ early, a.whileBusy = true ∧ a.isAccess = true ∧ a.permitted = true) →
    (∀ a ∈ rest.head?, a.whileBusy = false) →
    ∃ k t u, Sys2Proof.core.run k s = .next t ∧ exec i { s with host := rest } = .next u ∧
      t.inFlight = none ∧ t.host = rest ∧ (∀ r, t.reg r = u.reg r) ∧ t.c = u.c ∧ t.dbuf = u.dbuf

/-- A command in progress completes (R285, R286): when the accesses `early` land while it is, one step more than there
are of them gives the registers, C and DBUF of exec of that command, with BUSY = 0. And BUSY does not stay 1 whatever
permitted actions are pending, a change of the reset input among them, which abandons the command (R281): it is 0
within one step more than there are pending actions. That the pending actions are a finite list is log entry 2. -/
def Obligations.CommandInProgressCompletes : Prop :=
  ∀ s : State, s.Inv → s.resetHeld = false →
    (∀ (i : Instr) (early rest : List HostAction), s.inFlight = some i → s.host = early ++ rest →
      (∀ a ∈ early, a.whileBusy = true ∧ a.isAccess = true ∧ a.permitted = true) →
      (∀ a ∈ rest.head?, a.whileBusy = false) →
      ∃ t u, Sys2Proof.core.run (early.length + 1) s = .next t ∧ exec i { s with inFlight := none } = .next u ∧
        t.inFlight = none ∧ t.host = rest ∧ (∀ r, t.reg r = u.reg r) ∧ t.c = u.c ∧ t.dbuf = u.dbuf) ∧
    ((∀ a ∈ s.host, a.permitted = true) → s.inFlight.isSome = true →
      ∃ k t, k ≤ s.host.length + 1 ∧ Sys2Proof.core.run k s = .next t ∧ t.inFlight = none)

/-! ### Whole-machine rules -/

/-- The invariant `State.Inv` is kept by every step. -/
def Obligations.StepKeepsTheMachineInvariant : Prop := ∀ s t : State, s.Inv → step s = .next t → t.Inv

/-- The state after reset meets the invariant. -/
def Obligations.ResetMeetsTheMachineInvariant : Prop := State.reset.Inv

/-- A command writes no register but its rd, and for SDIV and SMOD the sources it writes back (R32). -/
def Obligations.CommandsWriteOnlyTheirRegisters : Prop :=
  ∀ (i : Instr) (s t : State), exec i s = .next t → KeepsRegsBut (writtenRegs i) s t

/-- A command writes no DBUF byte but those R125 to R128 name for it (R61, R121). -/
def Obligations.CommandsWriteOnlyTheirDbufBytes : Prop :=
  ∀ (i : Instr) (s t : State), exec i s = .next t → KeepsDbufBut (writtenBytes i).1 (writtenBytes i).2 s t

/-- Only ADDO, SUBO, U64O, ISU64, ISU128, LT, GT, SLT and SGT write C (R37), among all the steps of the machine: a
step that changes C is the completion of one of them, or a reset. -/
def Obligations.OnlyListedCommandsWriteC : Prop :=
  (∀ (i : Instr) (s t : State), writesC i = false → exec i s = .next t → t.c = s.c) ∧
  ∀ s t : State, step s = .next t → t.c ≠ s.c →
    t.resets = s.resets + 1 ∨
    (∃ i, writesC i = true ∧ (s.inFlight = some i ∨
      ∃ w a rest, s.host = a :: rest ∧ a.event = .write 0x00 (.b32 w) ∧ decode w = .ok i))

/-- No command sets or clears a status bit, starts or ends another command, or touches the environment: no arithmetic
condition sets a status bit (R250), and ILL and OVR are "sticky fault bits that no command clears, only a host write to
STATUS" (R256, R42), so commands keep executing whatever they hold (R261). -/
def Obligations.CommandsLeaveStatusAlone : Prop :=
  ∀ (i : Instr) (s t : State), exec i s = .next t → KeepsStatus s t ∧ KeepsEnvironment s t

/-- Every command the decoder gives runs to completion from every state: no condition of its operands stops it
(R250, R254, R286). A term that no word decodes to, because its byte count exceeds 64, stops by name: that stop is the
model's choice (log entry 14). -/
def Obligations.DecodedCommandsAlwaysComplete : Prop :=
  (∀ (w : CmdWord) (i : Instr) (s : State), decode w = .ok i → ∃ t, exec i s = .next t) ∧
  ∀ (i : Instr) (s : State), i.wf = false → exec i s = .fault .dbufOutOfRange ∧ ∀ w, decode w ≠ .ok i

/-- A command's results depend on the registers and on what DBUF reads as, and on nothing else: not on C (R36), not
on STATUS, not on the environment. -/
def Obligations.CommandsReadOnlyRegistersAndDbuf : Prop :=
  ∀ (i : Instr) (s t s' : State), SameSources s t → exec i s = .next s' →
    ∃ t', exec i t = .next t' ∧ SameSources s' t' ∧ (writesC i = true → s'.c = t'.c)

/-- ILL stays 1 until the host writes STATUS with bit 2 = 1, OVR until it writes STATUS with bit 3 = 1, or the reset
input changes (R42, R256). -/
def Obligations.StickyBitsStayUntilAcknowledged : Prop :=
  ∀ s t : State, step s = .next t →
    (s.ill = true → t.ill = false → t.resets = s.resets + 1 ∨
      ∃ a v rest, s.host = a :: rest ∧ a.event = .write 0x04 (.b32 v) ∧ v.toNat / 4 % 2 = 1) ∧
    (s.ovr = true → t.ovr = false → t.resets = s.resets + 1 ∨
      ∃ a v rest, s.host = a :: rest ∧ a.event = .write 0x04 (.b32 v) ∧ v.toNat / 8 % 2 = 1)

/-- A host that waits out BUSY before it writes CMD or DBUF never has a write dropped: no step sets OVR (R289, R257). -/
def Obligations.HostThatWaitsNeverOverruns : Prop :=
  ∀ s t : State, (∀ a ∈ s.host, a.waitsOutBusy = true) → step s = .next t →
    (t.ovr = true → s.ovr = true) ∧ ∀ a ∈ t.host, a.waitsOutBusy = true

/-! ### 40 conversion -/

/-- R122, R123: CLR writes 0 and MOV copies, all four words, into rd alone. -/
def Obligations.ClrAndMovResults : Prop :=
  ∀ (rd rs1 : Reg) (s : State),
    (decode (assembleWord 0x01#8 rd 0 0 0 0#8) = .ok (.clr rd) ∧
      ∃ t, exec (.clr rd) s = .next t ∧ t.reg rd = 0#256 ∧ WritesRegs [rd] s t) ∧
    (decode (assembleWord 0x02#8 rd rs1 0 0 0#8) = .ok (.mov rd rs1) ∧
      ∃ t, exec (.mov rd rs1) s = .next t ∧ t.reg rd = s.reg rs1 ∧ WritesRegs [rd] s t)

/-- The big-endian natural of the first `n` bytes of DBUF, first byte most significant (R15, R62). -/
def Sys2Proof.Machine.firstBytesValue (s : State) (n : Nat) : Nat :=
  ((List.range n).map s.dbufByte).foldl (fun acc b => acc * 256 + b.toNat) 0

/-- R124: SETB loads the big-endian value of DBUF[0..n-1] modulo 2^256 for every n in 0..64, bytes not written since
reset at whatever they hold; the word of a larger byte count is LENGTH_RANGE. -/
def Obligations.SetbLoadsBigEndianBytes : Prop :=
  ∀ (rd : Reg) (n : Nat) (s : State),
    (n ≤ 64 → decode (assembleWord 0x03#8 rd 0 0 0 (BitVec.ofNat 8 n)) = .ok (.setb rd n) ∧
      ∃ t, exec (.setb rd n) s = .next t ∧ (t.reg rd).toNat = firstBytesValue s n % 2 ^ 256 ∧ WritesRegs [rd] s t) ∧
    (64 < n → n < 256 → decode (assembleWord 0x03#8 rd 0 0 0 (BitVec.ofNat 8 n)) = .error .lengthRange)

/-- Byte `j` of a value, byte 0 the least significant. -/
def Sys2Proof.Machine.byteOf (v : U256) (j : Nat) : Byte := BitVec.ofNat 8 (v.toNat / 2 ^ (8 * j) % 256)

/-- R125, R126: B32 writes the 32 bytes of x[rs1] to DBUF[0..31] and B20 its low 20 bytes to DBUF[0..19], most
significant byte first, and nothing else. -/
def Obligations.FixedExportsWriteBigEndianBytes : Prop :=
  ∀ (rs1 : Reg) (s : State),
    (decode (assembleWord 0x04#8 0 rs1 0 0 0#8) = .ok (.b32 rs1) ∧
      ∃ t, exec (.b32 rs1) s = .next t ∧ (∀ i, i < 32 → t.dbufByte i = byteOf (s.reg rs1) (31 - i)) ∧
        WritesDbuf 0 32 s t) ∧
    (decode (assembleWord 0x05#8 0 rs1 0 0 0#8) = .ok (.b20 rs1) ∧
      ∃ t, exec (.b20 rs1) s = .next t ∧ (∀ i, i < 20 → t.dbufByte i = byteOf (s.reg rs1) (19 - i)) ∧
        WritesDbuf 0 20 s t)

/-- R127: WSLICE for every n in 0..64: for n ≥ 32 the 32 bytes of x[rs1] at DBUF[n-32..n-1] and DBUF[0..n-33]
untouched, for n < 32 its low n bytes at DBUF[0..n-1]; the word of a larger byte count is LENGTH_RANGE. -/
def Obligations.WsliceWritesTheBytesThatFit : Prop :=
  ∀ (rs1 : Reg) (n : Nat) (s : State),
    (n ≤ 64 → decode (assembleWord 0x06#8 0 rs1 0 0 (BitVec.ofNat 8 n)) = .ok (.wslice rs1 n)) ∧
    (32 ≤ n → n ≤ 64 → ∃ t, exec (.wslice rs1 n) s = .next t ∧
      (∀ i, i < 32 → t.dbufByte (n - 32 + i) = byteOf (s.reg rs1) (31 - i)) ∧ WritesDbuf (n - 32) 32 s t) ∧
    (n < 32 → ∃ t, exec (.wslice rs1 n) s = .next t ∧
      (∀ i, i < n → t.dbufByte i = byteOf (s.reg rs1) (n - 1 - i)) ∧ WritesDbuf 0 n s t) ∧
    (64 < n → n < 256 → decode (assembleWord 0x06#8 0 rs1 0 0 (BitVec.ofNat 8 n)) = .error .lengthRange)

/-- R128: PADB for every n in 0..64: x[rs1] modulo 2^(8n) at DBUF[0..n-1], zero-padded on the left (byte j of the value
is 0 for j ≥ 32); the word of a larger byte count is LENGTH_RANGE. -/
def Obligations.PadbWritesPaddedBytes : Prop :=
  ∀ (rs1 : Reg) (n : Nat) (s : State),
    (n ≤ 64 → decode (assembleWord 0x07#8 0 rs1 0 0 (BitVec.ofNat 8 n)) = .ok (.padb rs1 n) ∧
      ∃ t, exec (.padb rs1 n) s = .next t ∧ (∀ i, i < n → t.dbufByte i = byteOf (s.reg rs1) (n - 1 - i)) ∧
        (∀ i, i + 32 < n → t.dbufByte i = 0#8) ∧ WritesDbuf 0 n s t) ∧
    (64 < n → n < 256 → decode (assembleWord 0x07#8 0 rs1 0 0 (BitVec.ofNat 8 n)) = .error .lengthRange)

/-- R129: SETB x, 32 then B32 x leaves every DBUF byte as it was; B32 xs then SETB xd, 32 copies xs to xd. -/
def Obligations.ByteRoundTrips : Prop :=
  ∀ (rd rs : Reg) (s : State),
    (∃ t u, exec (.setb rd 32) s = .next t ∧ exec (.b32 rd) t = .next u ∧ KeepsDbuf s u) ∧
    (∃ t u, exec (.b32 rs) s = .next t ∧ exec (.setb rd 32) t = .next u ∧ u.reg rd = s.reg rs)

/-- R130: WSLICE and PADB agree for n ≤ 32; for n > 32 they differ only in DBUF[0..n-33], which WSLICE keeps and PADB
zeroes; and B32 and B20 are their cases n = 32 and n = 20. -/
def Obligations.ExportsAgree : Prop :=
  ∀ (rs1 : Reg) (n : Nat) (s : State),
    (n ≤ 32 → exec (.wslice rs1 n) s = exec (.padb rs1 n) s) ∧
    (32 < n → n ≤ 64 → ∃ t u, exec (.wslice rs1 n) s = .next t ∧ exec (.padb rs1 n) s = .next u ∧
      (∀ a, a + 32 < n → t.dbufByte a = s.dbufByte a ∧ u.dbufByte a = 0#8) ∧
      ∀ a, n ≤ a + 32 → t.dbufByte a = u.dbufByte a) ∧
    exec (.b32 rs1) s = exec (.wslice rs1 32) s ∧ exec (.b32 rs1) s = exec (.padb rs1 32) s ∧
    exec (.b20 rs1) s = exec (.wslice rs1 20) s ∧ exec (.b20 rs1) s = exec (.padb rs1 20) s

/-- R131, R132, R133: U64 gives the low word zero-extended, I64 the low word sign-extended, U64O the low word with C
set exactly when the value is 2^64 or more. -/
def Obligations.LowWordExtraction : Prop :=
  ∀ (rd rs1 : Reg) (s : State),
    let a := (s.reg rs1).toNat
    (decode (assembleWord 0x08#8 rd rs1 0 0 0#8) = .ok (.u64 rd rs1) ∧
      ∃ t, exec (.u64 rd rs1) s = .next t ∧ (t.reg rd).toNat = a % 2 ^ 64 ∧ WritesRegs [rd] s t) ∧
    (decode (assembleWord 0x09#8 rd rs1 0 0 0#8) = .ok (.i64 rd rs1) ∧
      ∃ t, exec (.i64 rd rs1) s = .next t ∧
        (t.reg rd).toNat = (if a % 2 ^ 64 < 2 ^ 63 then a % 2 ^ 64 else a % 2 ^ 64 + (2 ^ 256 - 2 ^ 64)) ∧
        WritesRegs [rd] s t) ∧
    (decode (assembleWord 0x0A#8 rd rs1 0 0 0#8) = .ok (.u64o rd rs1) ∧
      ∃ t, exec (.u64o rd rs1) s = .next t ∧ (t.reg rd).toNat = a % 2 ^ 64 ∧ (t.c = true ↔ 2 ^ 64 ≤ a) ∧
        WritesRegsAndC [rd] s t)

/-- R134, R135: ISU64 and ISU128 write 1 to rd and to C when the value is below 2^64, 2^128, else 0. -/
def Obligations.WidthPredicates : Prop :=
  ∀ (rd rs1 : Reg) (s : State),
    let a := (s.reg rs1).toNat
    (decode (assembleWord 0x0B#8 rd rs1 0 0 0#8) = .ok (.isu64 rd rs1) ∧
      ∃ t, exec (.isu64 rd rs1) s = .next t ∧ (t.reg rd).toNat = (if a < 2 ^ 64 then 1 else 0) ∧
        (t.c = true ↔ a < 2 ^ 64) ∧ WritesRegsAndC [rd] s t) ∧
    (decode (assembleWord 0x0C#8 rd rs1 0 0 0#8) = .ok (.isu128 rd rs1) ∧
      ∃ t, exec (.isu128 rd rs1) s = .next t ∧ (t.reg rd).toNat = (if a < 2 ^ 128 then 1 else 0) ∧
        (t.c = true ↔ a < 2 ^ 128) ∧ WritesRegsAndC [rd] s t)

/-! ### 41 add and subtract -/

/-- R150, R151: ADD wraps modulo 2^256 and leaves C; ADDO gives the same register value and the carry out in C. -/
def Obligations.AdditionResults : Prop :=
  ∀ (rd rs1 rs2 : Reg) (s : State),
    let a := (s.reg rs1).toNat
    let b := (s.reg rs2).toNat
    (decode (assembleWord 0x10#8 rd rs1 rs2 0 0#8) = .ok (.add rd rs1 rs2) ∧
      ∃ t, exec (.add rd rs1 rs2) s = .next t ∧ (t.reg rd).toNat = (a + b) % 2 ^ 256 ∧ WritesRegs [rd] s t) ∧
    (decode (assembleWord 0x11#8 rd rs1 rs2 0 0#8) = .ok (.addo rd rs1 rs2) ∧
      ∃ t, exec (.addo rd rs1 rs2) s = .next t ∧ (t.reg rd).toNat = (a + b) % 2 ^ 256 ∧
        (t.c = true ↔ 2 ^ 256 ≤ a + b) ∧ WritesRegsAndC [rd] s t)

/-- R152, R153, R154: SUB wraps modulo 2^256 and leaves C; SUBO gives the same and the borrow in C; SUB64 subtracts
word 0 of x[rs2] alone. -/
def Obligations.SubtractionResults : Prop :=
  ∀ (rd rs1 rs2 : Reg) (s : State),
    let a : Int := (s.reg rs1).toNat
    let b : Int := (s.reg rs2).toNat
    (decode (assembleWord 0x12#8 rd rs1 rs2 0 0#8) = .ok (.sub rd rs1 rs2) ∧
      ∃ t, exec (.sub rd rs1 rs2) s = .next t ∧ ((t.reg rd).toNat : Int) = (a - b) % 2 ^ 256 ∧
        WritesRegs [rd] s t) ∧
    (decode (assembleWord 0x13#8 rd rs1 rs2 0 0#8) = .ok (.subo rd rs1 rs2) ∧
      ∃ t, exec (.subo rd rs1 rs2) s = .next t ∧ ((t.reg rd).toNat : Int) = (a - b) % 2 ^ 256 ∧
        (t.c = true ↔ a < b) ∧ WritesRegsAndC [rd] s t) ∧
    (decode (assembleWord 0x14#8 rd rs1 rs2 0 0#8) = .ok (.sub64 rd rs1 rs2) ∧
      ∃ t, exec (.sub64 rd rs1 rs2) s = .next t ∧ ((t.reg rd).toNat : Int) = (a - b % 2 ^ 64) % 2 ^ 256 ∧
        WritesRegs [rd] s t)

/-- R155: the word-wise carry and borrow chains compute the results of ADD and SUB, their carry and borrow out, and,
with the scalar in word 0 alone, the result of SUB64. -/
def Obligations.WordChainsGiveExactResults : Prop :=
  ∀ a b : U256, addChain a b = (addWrap a b, carryOut a b) ∧ subChain a b = (subWrap a b, borrowOut a b) ∧
    (subChain a ((wordOf b 0).setWidth 256)).1 = subScalar a b

/-- R157: ADD t, a, b then SUB r, t, b gives a back, for every choice of registers with t ≠ b's register; and SUBO
leaves in C the value LT writes for the same operands. -/
def Obligations.AddThenSubGivesBack : Prop :=
  ∀ (rt ra rb rr : Reg) (s : State),
    (rt ≠ rb → ∃ t u, exec (.add rt ra rb) s = .next t ∧ exec (.sub rr rt rb) t = .next u ∧ u.reg rr = s.reg ra) ∧
    (∃ t u, exec (.subo rt ra rb) s = .next t ∧ exec (.lt rt ra rb) s = .next u ∧ t.c = u.c)

/-! ### 42 multiply -/

/-- R166, R167: MUL and SQR give the low 256 bits of the product. -/
def Obligations.MultiplicationResults : Prop :=
  ∀ (rd rs1 rs2 : Reg) (s : State),
    let a := (s.reg rs1).toNat
    let b := (s.reg rs2).toNat
    (decode (assembleWord 0x20#8 rd rs1 rs2 0 0#8) = .ok (.mul rd rs1 rs2) ∧
      ∃ t, exec (.mul rd rs1 rs2) s = .next t ∧ (t.reg rd).toNat = a * b % 2 ^ 256 ∧ WritesRegs [rd] s t) ∧
    (decode (assembleWord 0x21#8 rd rs1 0 0 0#8) = .ok (.sqr rd rs1) ∧
      ∃ t, exec (.sqr rd rs1) s = .next t ∧ (t.reg rd).toNat = a * a % 2 ^ 256 ∧ WritesRegs [rd] s t)

/-- R165, R168: the word primitive is exact, and the schoolbook product built on it has eight words whose value is the
exact 512-bit product. -/
def Obligations.SchoolbookProductIsExact : Prop :=
  (∀ p q u c : Word, (mac p q u c).1.toNat * 2 ^ 64 + (mac p q u c).2.toNat = p.toNat * q.toNat + u.toNat + c.toNat) ∧
  ∀ a b : U256, (umulWords a b).length = 8 ∧ wordsValue (umulWords a b) = a.toNat * b.toNat

/-- R171: MUL gives the exact product modulo 2^256, commutes, associates and distributes over ADD, and SQR is MUL of a
value by itself. -/
def Obligations.MultiplicationLaws : Prop :=
  (∀ (rd rs1 rs2 : Reg) (s : State),
    (∃ t, exec (.mul rd rs1 rs2) s = .next t ∧
      (t.reg rd).toNat = wordsValue (umulWords (s.reg rs1) (s.reg rs2)) % 2 ^ 256) ∧
    exec (.mul rd rs1 rs2) s = exec (.mul rd rs2 rs1) s ∧ exec (.sqr rd rs1) s = exec (.mul rd rs1 rs1) s) ∧
  ∀ a b c : U256, mulWrap (mulWrap a b) c = mulWrap a (mulWrap b c) ∧
    mulWrap a (addWrap b c) = addWrap (mulWrap a b) (mulWrap a c)

/-! ### 43 divide -/

/-- R176, R177: DIV gives the quotient, MOD the remainder, both 0 for a zero divisor, C and STATUS unchanged. -/
def Obligations.DivisionResults : Prop :=
  ∀ (rd rs1 rs2 : Reg) (s : State),
    let a := (s.reg rs1).toNat
    let b := (s.reg rs2).toNat
    (decode (assembleWord 0x30#8 rd rs1 rs2 0 0#8) = .ok (.div rd rs1 rs2) ∧
      ∃ t, exec (.div rd rs1 rs2) s = .next t ∧ (t.reg rd).toNat = (if b = 0 then 0 else a / b) ∧
        WritesRegs [rd] s t) ∧
    (decode (assembleWord 0x31#8 rd rs1 rs2 0 0#8) = .ok (.mod rd rs1 rs2) ∧
      ∃ t, exec (.mod rd rs1 rs2) s = .next t ∧ (t.reg rd).toNat = (if b = 0 then 0 else a % b) ∧
        WritesRegs [rd] s t)

/-- R182: for b ≠ 0, quotient times divisor plus remainder is the dividend modulo 2^256, and the remainder is below
the divisor; for b = 0 both are 0. The values are those the two commands leave in rd from one state. -/
def Obligations.DivisionIdentity : Prop :=
  ∀ (rq rr rs1 rs2 : Reg) (s : State),
    ∃ t u, exec (.div rq rs1 rs2) s = .next t ∧ exec (.mod rr rs1 rs2) s = .next u ∧
      (s.reg rs2 ≠ 0#256 →
        t.reg rq * s.reg rs2 + u.reg rr = s.reg rs1 ∧ (u.reg rr).toNat < (s.reg rs2).toNat) ∧
      (s.reg rs2 = 0#256 → t.reg rq = 0#256 ∧ u.reg rr = 0#256)

/-! ### 44 modular and signed division -/

/-- R195, R196, R197, R201: ADDMOD and MULMOD reduce the exact sum and product, give 0 for a zero modulus, and read
the modulus before rd is written, for every choice of the four registers. -/
def Obligations.ModularResults : Prop :=
  ∀ (rd rs1 rs2 rs3 : Reg) (s : State),
    let a := (s.reg rs1).toNat
    let b := (s.reg rs2).toNat
    let m := (s.reg rs3).toNat
    (decode (assembleWord 0x40#8 rd rs1 rs2 rs3 0#8) = .ok (.addmod rd rs1 rs2 rs3) ∧
      ∃ t, exec (.addmod rd rs1 rs2 rs3) s = .next t ∧ (t.reg rd).toNat = (if m = 0 then 0 else (a + b) % m) ∧
        WritesRegs [rd] s t) ∧
    (decode (assembleWord 0x41#8 rd rs1 rs2 rs3 0#8) = .ok (.mulmod rd rs1 rs2 rs3) ∧
      ∃ t, exec (.mulmod rd rs1 rs2 rs3) s = .next t ∧ (t.reg rd).toNat = (if m = 0 then 0 else a * b % m) ∧
        WritesRegs [rd] s t)

/-- What SDIV and SMOD leave in every register but rd (R200): a source that was negative holds its negation, every
other register its value. -/
def Sys2Proof.Machine.WrittenBack (rd rs1 rs2 : Reg) (s t : State) : Prop :=
  ∀ r, r ≠ rd →
    t.reg r = if (r = rs1 ∨ r = rs2) ∧ 2 ^ 255 ≤ (s.reg r).toNat then -(s.reg r) else s.reg r

/-- R198, R199, R200: SDIV gives the quotient truncated toward zero, encoded modulo 2^256 (0 for a zero divisor,
SignedMin by -1 wrapping to SignedMin); SMOD gives the remainder with the dividend's sign (0 for a zero divisor). Both
write rd last, after the write-back of negative sources from their values before the command. -/
def Obligations.SignedDivisionResults : Prop :=
  ∀ (rd rs1 rs2 : Reg) (s : State),
    (decode (assembleWord 0x42#8 rd rs1 rs2 0 0#8) = .ok (.sdiv rd rs1 rs2) ∧
      ∃ t, exec (.sdiv rd rs1 rs2) s = .next t ∧
        t.reg rd = BitVec.ofInt 256 (Int.tdiv (s.reg rs1).toInt (s.reg rs2).toInt) ∧ WrittenBack rd rs1 rs2 s t ∧
        t.c = s.c ∧ KeepsDbuf s t ∧ KeepsStatus s t ∧ KeepsEnvironment s t) ∧
    (decode (assembleWord 0x43#8 rd rs1 rs2 0 0#8) = .ok (.smod rd rs1 rs2) ∧
      ∃ t, exec (.smod rd rs1 rs2) s = .next t ∧
        t.reg rd = (if s.reg rs2 = 0#256 then 0#256
          else BitVec.ofInt 256 (Int.tmod (s.reg rs1).toInt (s.reg rs2).toInt)) ∧
        WrittenBack rd rs1 rs2 s t ∧ t.c = s.c ∧ KeepsDbuf s t ∧ KeepsStatus s t ∧ KeepsEnvironment s t)

/-- R203: for a non-zero divisor, the results q of SDIV and r of SMOD on the same operands satisfy
(q * b + r) mod 2^256 = a. -/
def Obligations.SignedDivisionIdentity : Prop :=
  ∀ (rq rr rs1 rs2 : Reg) (s : State), s.reg rs2 ≠ 0#256 →
    ∃ t u, exec (.sdiv rq rs1 rs2) s = .next t ∧ exec (.smod rr rs1 rs2) s = .next u ∧
      t.reg rq * s.reg rs2 + u.reg rr = s.reg rs1

/-! ### 45 shift -/

/-- R210, R211, R212, R213: LSH and RSH shift by the whole 256-bit amount and give 0 for every amount of 256 or more;
SRSH rounds the signed value divided by 2^n toward minus infinity, and gives 0, or all ones for a negative value, for
every amount of 256 or more. -/
def Obligations.ShiftResults : Prop :=
  ∀ (rd rs1 rs2 : Reg) (s : State),
    let a := (s.reg rs1).toNat
    let n := (s.reg rs2).toNat
    (decode (assembleWord 0x50#8 rd rs1 rs2 0 0#8) = .ok (.lsh rd rs1 rs2) ∧
      ∃ t, exec (.lsh rd rs1 rs2) s = .next t ∧
        (t.reg rd).toNat = (if 256 ≤ n then 0 else a * 2 ^ n % 2 ^ 256) ∧ WritesRegs [rd] s t) ∧
    (decode (assembleWord 0x51#8 rd rs1 rs2 0 0#8) = .ok (.rsh rd rs1 rs2) ∧
      ∃ t, exec (.rsh rd rs1 rs2) s = .next t ∧ (t.reg rd).toNat = (if 256 ≤ n then 0 else a / 2 ^ n) ∧
        WritesRegs [rd] s t) ∧
    (decode (assembleWord 0x52#8 rd rs1 rs2 0 0#8) = .ok (.srsh rd rs1 rs2) ∧
      ∃ t, exec (.srsh rd rs1 rs2) s = .next t ∧
        t.reg rd = BitVec.ofInt 256 ((s.reg rs1).toInt / 2 ^ min n 256) ∧ WritesRegs [rd] s t)

/-- R215: LSH by n then RSH by n clears the high n bits, for n below 256, and gives the value back exactly when they
were 0; both shifts by 0 are the identity, and by 256 or more they give 0. -/
def Obligations.ShiftInverse : Prop :=
  ∀ (rt rr ra rn : Reg) (s : State), rt ≠ rn →
    ∃ t u, exec (.lsh rt ra rn) s = .next t ∧ exec (.rsh rr rt rn) t = .next u ∧
      ((s.reg rn).toNat < 256 → (u.reg rr).toNat = (s.reg ra).toNat % 2 ^ (256 - (s.reg rn).toNat) ∧
        (u.reg rr = s.reg ra ↔ (s.reg ra).toNat < 2 ^ (256 - (s.reg rn).toNat))) ∧
      (256 ≤ (s.reg rn).toNat → t.reg rt = 0#256 ∧ u.reg rr = 0#256) ∧
      (s.reg rn = 0#256 → t.reg rt = s.reg ra ∧ u.reg rr = t.reg rt)

/-! ### 46 compare -/

/-- R220, R221, R222, R223: the four predicates write their truth value to rd as 0 or 1 and to C, the signed pair by
the two's-complement reading. -/
def Obligations.ComparisonResults : Prop :=
  ∀ (rd rs1 rs2 : Reg) (s : State),
    let a := s.reg rs1
    let b := s.reg rs2
    (decode (assembleWord 0x60#8 rd rs1 rs2 0 0#8) = .ok (.lt rd rs1 rs2) ∧
      ∃ t, exec (.lt rd rs1 rs2) s = .next t ∧ t.c = decide (a.toNat < b.toNat) ∧
        t.reg rd = (if a.toNat < b.toNat then 1#256 else 0#256) ∧ WritesRegsAndC [rd] s t) ∧
    (decode (assembleWord 0x61#8 rd rs1 rs2 0 0#8) = .ok (.gt rd rs1 rs2) ∧
      ∃ t, exec (.gt rd rs1 rs2) s = .next t ∧ t.c = decide (b.toNat < a.toNat) ∧
        t.reg rd = (if b.toNat < a.toNat then 1#256 else 0#256) ∧ WritesRegsAndC [rd] s t) ∧
    (decode (assembleWord 0x62#8 rd rs1 rs2 0 0#8) = .ok (.slt rd rs1 rs2) ∧
      ∃ t, exec (.slt rd rs1 rs2) s = .next t ∧ t.c = decide (a.toInt < b.toInt) ∧
        t.reg rd = (if a.toInt < b.toInt then 1#256 else 0#256) ∧ WritesRegsAndC [rd] s t) ∧
    (decode (assembleWord 0x63#8 rd rs1 rs2 0 0#8) = .ok (.sgt rd rs1 rs2) ∧
      ∃ t, exec (.sgt rd rs1 rs2) s = .next t ∧ t.c = decide (b.toInt < a.toInt) ∧
        t.reg rd = (if b.toInt < a.toInt then 1#256 else 0#256) ∧ WritesRegsAndC [rd] s t)

/-- R224: CMP gives 2^256 - 1 for a < b, 1 for a > b, 0 for equal, unsigned, and leaves C. -/
def Obligations.ThreeWayCompareResult : Prop :=
  ∀ (rd rs1 rs2 : Reg) (s : State),
    let a := (s.reg rs1).toNat
    let b := (s.reg rs2).toNat
    decode (assembleWord 0x64#8 rd rs1 rs2 0 0#8) = .ok (.cmp rd rs1 rs2) ∧
    ∃ t, exec (.cmp rd rs1 rs2) s = .next t ∧
      (t.reg rd).toNat = (if a < b then 2 ^ 256 - 1 else if b < a then 1 else 0) ∧ WritesRegs [rd] s t

/-! ### 47 sign -/

/-- R230, R231, R232, R233: SIGN gives 0, 1 or 2^256 - 1; ABS the magnitude, SignedMin for SignedMin; NEG
(2^256 - a) mod 2^256. -/
def Obligations.SignUnitResults : Prop :=
  ∀ (rd rs1 : Reg) (s : State),
    let a := (s.reg rs1).toNat
    (decode (assembleWord 0x70#8 rd rs1 0 0 0#8) = .ok (.sign rd rs1) ∧
      ∃ t, exec (.sign rd rs1) s = .next t ∧
        (t.reg rd).toNat = (if a = 0 then 0 else if a < 2 ^ 255 then 1 else 2 ^ 256 - 1) ∧ WritesRegs [rd] s t) ∧
    (decode (assembleWord 0x71#8 rd rs1 0 0 0#8) = .ok (.abs rd rs1) ∧
      ∃ t, exec (.abs rd rs1) s = .next t ∧ (t.reg rd).toNat = (if a < 2 ^ 255 then a else 2 ^ 256 - a) ∧
        WritesRegs [rd] s t) ∧
    (decode (assembleWord 0x72#8 rd rs1 0 0 0#8) = .ok (.neg rd rs1) ∧
      ∃ t, exec (.neg rd rs1) s = .next t ∧ (t.reg rd).toNat = (2 ^ 256 - a) % 2 ^ 256 ∧ WritesRegs [rd] s t)

/-- R234: NEG of NEG is the identity, a value and its NEG add to 0, and ABS is the identity where SIGN gives 0 or 1 and
NEG where it gives -1. -/
def Obligations.SignUnitLaws : Prop :=
  ∀ (rt rr ra : Reg) (s : State),
    (∃ t u, exec (.neg rt ra) s = .next t ∧ exec (.neg rr rt) t = .next u ∧ u.reg rr = s.reg ra) ∧
    (rt ≠ ra → ∃ t u, exec (.neg rt ra) s = .next t ∧ exec (.add rr ra rt) t = .next u ∧ u.reg rr = 0#256) ∧
    ∃ t u v, exec (.sign rr ra) s = .next t ∧ exec (.abs rr ra) s = .next u ∧ exec (.neg rr ra) s = .next v ∧
      (t.reg rr = 0#256 ∨ t.reg rr = 1#256 → u.reg rr = s.reg ra) ∧
      ((t.reg rr).toNat = 2 ^ 256 - 1 → u.reg rr = v.reg rr)

/-! ### 48 exponentiation -/

/-- R241: EXP gives a^e mod 2^256 for every base and every 256-bit exponent, a^0 = 1 for a = 0 too. -/
def Obligations.ExponentiationResult : Prop :=
  ∀ (rd rs1 rs2 : Reg) (s : State),
    decode (assembleWord 0x80#8 rd rs1 rs2 0 0#8) = .ok (.exp rd rs1 rs2) ∧
    ∃ t, exec (.exp rd rs1 rs2) s = .next t ∧
      (t.reg rd).toNat = (s.reg rs1).toNat ^ (s.reg rs2).toNat % 2 ^ 256 ∧ WritesRegs [rd] s t
end

