-- ==== Sys2Proof/Laws/Encoding.lean ====
section
/-! SUPPORT. A command word is its six fields (30_encoding.md R91): what each field of an assembled word is, what the
masks of R92 leave of a word, and when two assembled words are equal. -/

namespace Sys2Proof

/-- A word from its six fields as bit vectors, most significant first (30_encoding.md R91). -/
def packFields (op : BitVec 8) (a b c d : BitVec 4) (e : BitVec 8) : CmdWord := op ++ a ++ b ++ c ++ d ++ e

theorem toNat_append_eq {m n : Nat} (x : BitVec m) (y : BitVec n) :
    (x ++ y).toNat = x.toNat * 2 ^ n + y.toNat := by
  rw [BitVec.toNat_append, ← Nat.shiftLeft_add_eq_or_of_lt y.isLt, Nat.shiftLeft_eq]

theorem toNat_packFields (op : BitVec 8) (a b c d : BitVec 4) (e : BitVec 8) :
    (packFields op a b c d e).toNat =
      op.toNat * 2 ^ 24 + a.toNat * 2 ^ 20 + b.toNat * 2 ^ 16 + c.toNat * 2 ^ 12 + d.toNat * 2 ^ 8 + e.toNat := by
  simp only [packFields, toNat_append_eq]
  ring

theorem toNat_extract (w : CmdWord) (lo len : Nat) :
    (w.extractLsb' lo len).toNat = w.toNat / 2 ^ lo % 2 ^ len := by
  simp [BitVec.extractLsb'_toNat, Nat.shiftRight_eq_div_pow]

theorem assembleWord_eq_packFields (op : BitVec 8) (rd rs1 rs2 rs3 : Reg) (imm : BitVec 8) :
    assembleWord op rd rs1 rs2 rs3 imm = packFields op (regBits rd) (regBits rs1) (regBits rs2) (regBits rs3) imm :=
  rfl

@[simp] theorem toNat_regBits (r : Reg) : (regBits r).toNat = r.val := by
  simp [regBits]

/-- Two packed words are equal exactly when their fields are. -/
theorem packFields_inj {op op' : BitVec 8} {a b c d a' b' c' d' : BitVec 4} {e e' : BitVec 8} :
    packFields op a b c d e = packFields op' a' b' c' d' e' ↔
      op = op' ∧ a = a' ∧ b = b' ∧ c = c' ∧ d = d' ∧ e = e' := by
  constructor
  · intro h
    have hn := congrArg BitVec.toNat h
    rw [toNat_packFields, toNat_packFields] at hn
    have := op.isLt; have := op'.isLt; have := a.isLt; have := a'.isLt; have := b.isLt; have := b'.isLt
    have := c.isLt; have := c'.isLt; have := d.isLt; have := d'.isLt; have := e.isLt; have := e'.isLt
    refine ⟨?_, ?_, ?_, ?_, ?_, ?_⟩ <;> (apply BitVec.eq_of_toNat_eq; omega)
  · rintro ⟨rfl, rfl, rfl, rfl, rfl, rfl⟩
    rfl

/-- Every word is the pack of its own fields. -/
theorem eq_packFields (w : CmdWord) :
    w = packFields (opcodeOf w) (w.extractLsb' 20 4) (w.extractLsb' 16 4) (w.extractLsb' 12 4) (w.extractLsb' 8 4)
      (w.extractLsb' 0 8) := by
  apply BitVec.eq_of_toNat_eq
  have := w.isLt
  rw [toNat_packFields]
  simp only [opcodeOf, toNat_extract]
  omega

/-- Conjunction of two sextuples of fields, field by field. -/
theorem append_and_append {n1 n2 n3 n4 n5 n6 : Nat} (x1 y1 : BitVec n1) (x2 y2 : BitVec n2) (x3 y3 : BitVec n3)
    (x4 y4 : BitVec n4) (x5 y5 : BitVec n5) (x6 y6 : BitVec n6) :
    (x1 ++ x2 ++ x3 ++ x4 ++ x5 ++ x6) &&& (y1 ++ y2 ++ y3 ++ y4 ++ y5 ++ y6) =
      (x1 &&& y1) ++ (x2 &&& y2) ++ (x3 &&& y3) ++ (x4 &&& y4) ++ (x5 &&& y5) ++ (x6 &&& y6) := by
  simp only [BitVec.and_append]

/-- A mask of whole fields keeps or clears each field. -/
theorem packFields_and (op op' : BitVec 8) (a b c d a' b' c' d' : BitVec 4) (e e' : BitVec 8) :
    packFields op a b c d e &&& packFields op' a' b' c' d' e' =
      packFields (op &&& op') (a &&& a') (b &&& b') (c &&& c') (d &&& d') (e &&& e') :=
  append_and_append ..

/-! ### The fields of a packed word -/

@[simp] theorem opcodeOf_packFields (op : BitVec 8) (a b c d : BitVec 4) (e : BitVec 8) :
    opcodeOf (packFields op a b c d e) = op :=
  ((packFields_inj.mp (eq_packFields (packFields op a b c d e))).1).symm

theorem extract_packFields (op : BitVec 8) (a b c d : BitVec 4) (e : BitVec 8) :
    (packFields op a b c d e).extractLsb' 20 4 = a ∧ (packFields op a b c d e).extractLsb' 16 4 = b ∧
    (packFields op a b c d e).extractLsb' 12 4 = c ∧ (packFields op a b c d e).extractLsb' 8 4 = d ∧
    (packFields op a b c d e).extractLsb' 0 8 = e := by
  obtain ⟨_, h1, h2, h3, h4, h5⟩ := packFields_inj.mp (eq_packFields (packFields op a b c d e))
  exact ⟨h1.symm, h2.symm, h3.symm, h4.symm, h5.symm⟩

/-! ### The fields of an assembled word -/

@[simp] theorem opcodeOf_assembleWord (op : BitVec 8) (rd rs1 rs2 rs3 : Reg) (imm : BitVec 8) :
    opcodeOf (assembleWord op rd rs1 rs2 rs3 imm) = op := opcodeOf_packFields ..

theorem regBits_toFin (r : Reg) : (regBits r).toFin = r := by
  exact Fin.ext (toNat_regBits r)

@[simp] theorem rdOf_assembleWord (op : BitVec 8) (rd rs1 rs2 rs3 : Reg) (imm : BitVec 8) :
    rdOf (assembleWord op rd rs1 rs2 rs3 imm) = rd := by
  rw [rdOf, assembleWord_eq_packFields, (extract_packFields ..).1]
  exact regBits_toFin rd

@[simp] theorem rs1Of_assembleWord (op : BitVec 8) (rd rs1 rs2 rs3 : Reg) (imm : BitVec 8) :
    rs1Of (assembleWord op rd rs1 rs2 rs3 imm) = rs1 := by
  rw [rs1Of, assembleWord_eq_packFields, (extract_packFields ..).2.1]
  exact regBits_toFin rs1

@[simp] theorem rs2Of_assembleWord (op : BitVec 8) (rd rs1 rs2 rs3 : Reg) (imm : BitVec 8) :
    rs2Of (assembleWord op rd rs1 rs2 rs3 imm) = rs2 := by
  rw [rs2Of, assembleWord_eq_packFields, (extract_packFields ..).2.2.1]
  exact regBits_toFin rs2

@[simp] theorem rs3Of_assembleWord (op : BitVec 8) (rd rs1 rs2 rs3 : Reg) (imm : BitVec 8) :
    rs3Of (assembleWord op rd rs1 rs2 rs3 imm) = rs3 := by
  rw [rs3Of, assembleWord_eq_packFields, (extract_packFields ..).2.2.2.1]
  exact regBits_toFin rs3

@[simp] theorem imm8Of_assembleWord (op : BitVec 8) (rd rs1 rs2 rs3 : Reg) (imm : BitVec 8) :
    imm8Of (assembleWord op rd rs1 rs2 rs3 imm) = imm.toNat := by
  rw [imm8Of, assembleWord_eq_packFields, (extract_packFields ..).2.2.2.2]

theorem regBits_ofFin (x : BitVec 4) : regBits x.toFin = x := by
  apply BitVec.eq_of_toNat_eq
  rw [toNat_regBits]
  rfl

/-- Every word is assembled from its own fields. -/
theorem eq_assembleWord (w : CmdWord) :
    w = assembleWord (opcodeOf w) (rdOf w) (rs1Of w) (rs2Of w) (rs3Of w) (w.extractLsb' 0 8) := by
  conv_lhs => rw [eq_packFields w]
  rw [assembleWord_eq_packFields]
  simp only [rdOf, rs1Of, rs2Of, rs3Of, regBits_ofFin]

/-! ### The masks of R92 -/

theorem matchWord_eq_packFields (op : BitVec 8) : matchWord op = packFields op 0#4 0#4 0#4 0#4 0#8 := by
  apply BitVec.eq_of_toNat_eq
  rw [toNat_packFields, matchWord, toNat_append_eq]
  simp

/-- The fields a class reserves, as the mask of R92 sees them: all ones where the field is checked. -/
def OpClass.maskFields : OpClass → BitVec 4 × BitVec 4 × BitVec 4 × BitVec 4 × BitVec 8
  | .z => (0x0#4, 0xF#4, 0xF#4, 0xF#4, 0xFF#8)
  | .un => (0x0#4, 0x0#4, 0xF#4, 0xF#4, 0xFF#8)
  | .bin => (0x0#4, 0x0#4, 0x0#4, 0xF#4, 0xFF#8)
  | .ter => (0x0#4, 0x0#4, 0x0#4, 0x0#4, 0xFF#8)
  | .ld => (0x0#4, 0xF#4, 0xF#4, 0xF#4, 0x00#8)
  | .st => (0xF#4, 0x0#4, 0xF#4, 0xF#4, 0xFF#8)
  | .stn => (0xF#4, 0x0#4, 0xF#4, 0xF#4, 0x00#8)

theorem mask_eq_packFields (k : OpClass) :
    k.mask = packFields 0xFF#8 k.maskFields.1 k.maskFields.2.1 k.maskFields.2.2.1 k.maskFields.2.2.2.1
      k.maskFields.2.2.2.2 := by
  cases k <;> rfl

/-- What the check of R99 (2) compares, field by field. -/
theorem mask_match_iff (k : OpClass) (op op' : BitVec 8) (a b c d : BitVec 4) (e : BitVec 8) :
    packFields op a b c d e &&& k.mask = matchWord op' ↔
      op = op' ∧ a &&& k.maskFields.1 = 0#4 ∧ b &&& k.maskFields.2.1 = 0#4 ∧ c &&& k.maskFields.2.2.1 = 0#4 ∧
        d &&& k.maskFields.2.2.2.1 = 0#4 ∧ e &&& k.maskFields.2.2.2.2 = 0#8 := by
  rw [mask_eq_packFields, packFields_and, matchWord_eq_packFields, packFields_inj]
  rw [show op &&& 0xFF#8 = op from BitVec.and_allOnes]

theorem and_ones4 (x : BitVec 4) : x &&& 0xF#4 = x := BitVec.and_allOnes
theorem and_ones8 (x : BitVec 8) : x &&& 0xFF#8 = x := BitVec.and_allOnes

end Sys2Proof
end

