-- ==== Sys2Proof/Laws/PerInstr.lean ====
section
/-! SUPPORT. Statements made per instruction. `MaskMatch`: the encoder's word of a command has the command's opcode
and passes the mask check of the command's class (30_encoding.md R92). -/

namespace Sys2Proof.Laws.MaskMatch

/-- The word of `i` matches `opcode << 24` under the mask of its class (30_encoding.md R92). -/
def Statement (i : Instr) : Prop :=
  opcodeOf (encode i) = opcodeByte i ∧ encode i &&& (classOf i).mask = matchWord (opcodeByte i)

/-- A word whose reserved fields are zero bits matches. -/
theorem of_fields {w : CmdWord} {k : OpClass} {op : BitVec 8} {rd rs1 rs2 rs3 : Reg} {imm : BitVec 8}
    (hw : w = assembleWord op rd rs1 rs2 rs3 imm) (h1 : regBits rd &&& k.maskFields.1 = 0#4)
    (h2 : regBits rs1 &&& k.maskFields.2.1 = 0#4) (h3 : regBits rs2 &&& k.maskFields.2.2.1 = 0#4)
    (h4 : regBits rs3 &&& k.maskFields.2.2.2.1 = 0#4) (h5 : imm &&& k.maskFields.2.2.2.2 = 0#8) :
    opcodeOf w = op ∧ w &&& k.mask = matchWord op := by
  subst hw
  refine ⟨opcodeOf_assembleWord .., ?_⟩
  rw [assembleWord_eq_packFields, mask_match_iff]
  exact ⟨rfl, h1, h2, h3, h4, h5⟩

theorem zero_field (x : BitVec 4) : x &&& 0x0#4 = 0#4 := BitVec.and_zero
theorem zero_reg (x : BitVec 4) : regBits 0 &&& x = 0#4 := BitVec.zero_and
theorem zero_imm (x : BitVec 8) : 0#8 &&& x = 0#8 := BitVec.zero_and
theorem zero_imm_mask (x : BitVec 8) : x &&& 0x00#8 = 0#8 := BitVec.and_zero

theorem class_z (op : BitVec 8) (rd : Reg) :
    opcodeOf (encodeZ op rd) = op ∧ encodeZ op rd &&& OpClass.z.mask = matchWord op :=
  of_fields rfl (zero_field _) (zero_reg _) (zero_reg _) (zero_reg _) (zero_imm _)

theorem class_un (op : BitVec 8) (rd rs1 : Reg) :
    opcodeOf (encodeUn op rd rs1) = op ∧ encodeUn op rd rs1 &&& OpClass.un.mask = matchWord op :=
  of_fields rfl (zero_field _) (zero_field _) (zero_reg _) (zero_reg _) (zero_imm _)

theorem class_bin (op : BitVec 8) (rd rs1 rs2 : Reg) :
    opcodeOf (encodeBin op rd rs1 rs2) = op ∧ encodeBin op rd rs1 rs2 &&& OpClass.bin.mask = matchWord op :=
  of_fields rfl (zero_field _) (zero_field _) (zero_field _) (zero_reg _) (zero_imm _)

theorem class_ter (op : BitVec 8) (rd rs1 rs2 rs3 : Reg) :
    opcodeOf (encodeTer op rd rs1 rs2 rs3) = op ∧ encodeTer op rd rs1 rs2 rs3 &&& OpClass.ter.mask = matchWord op :=
  of_fields rfl (zero_field _) (zero_field _) (zero_field _) (zero_field _) (zero_imm _)

theorem class_ld (op : BitVec 8) (rd : Reg) (n : Nat) :
    opcodeOf (encodeLd op rd n) = op ∧ encodeLd op rd n &&& OpClass.ld.mask = matchWord op :=
  of_fields rfl (zero_field _) (zero_reg _) (zero_reg _) (zero_reg _) (zero_imm_mask _)

theorem class_st (op : BitVec 8) (rs1 : Reg) :
    opcodeOf (encodeSt op rs1) = op ∧ encodeSt op rs1 &&& OpClass.st.mask = matchWord op :=
  of_fields rfl (zero_reg _) (zero_field _) (zero_reg _) (zero_reg _) (zero_imm _)

theorem class_stn (op : BitVec 8) (rs1 : Reg) (n : Nat) :
    opcodeOf (encodeStn op rs1 n) = op ∧ encodeStn op rs1 n &&& OpClass.stn.mask = matchWord op :=
  of_fields rfl (zero_reg _) (zero_field _) (zero_reg _) (zero_reg _) (zero_imm_mask _)

theorem clr (rd : Reg) : Statement (.clr rd) := class_z _ _
theorem mov (rd rs1 : Reg) : Statement (.mov rd rs1) := class_un _ _ _
theorem setb (rd : Reg) (n : Nat) : Statement (.setb rd n) := class_ld _ _ _
theorem b32 (rs1 : Reg) : Statement (.b32 rs1) := class_st _ _
theorem b20 (rs1 : Reg) : Statement (.b20 rs1) := class_st _ _
theorem wslice (rs1 : Reg) (n : Nat) : Statement (.wslice rs1 n) := class_stn _ _ _
theorem padb (rs1 : Reg) (n : Nat) : Statement (.padb rs1 n) := class_stn _ _ _
theorem u64 (rd rs1 : Reg) : Statement (.u64 rd rs1) := class_un _ _ _
theorem i64 (rd rs1 : Reg) : Statement (.i64 rd rs1) := class_un _ _ _
theorem u64o (rd rs1 : Reg) : Statement (.u64o rd rs1) := class_un _ _ _
theorem isu64 (rd rs1 : Reg) : Statement (.isu64 rd rs1) := class_un _ _ _
theorem isu128 (rd rs1 : Reg) : Statement (.isu128 rd rs1) := class_un _ _ _
theorem add (rd rs1 rs2 : Reg) : Statement (.add rd rs1 rs2) := class_bin _ _ _ _
theorem addo (rd rs1 rs2 : Reg) : Statement (.addo rd rs1 rs2) := class_bin _ _ _ _
theorem sub (rd rs1 rs2 : Reg) : Statement (.sub rd rs1 rs2) := class_bin _ _ _ _
theorem subo (rd rs1 rs2 : Reg) : Statement (.subo rd rs1 rs2) := class_bin _ _ _ _
theorem sub64 (rd rs1 rs2 : Reg) : Statement (.sub64 rd rs1 rs2) := class_bin _ _ _ _
theorem mul (rd rs1 rs2 : Reg) : Statement (.mul rd rs1 rs2) := class_bin _ _ _ _
theorem sqr (rd rs1 : Reg) : Statement (.sqr rd rs1) := class_un _ _ _
theorem div (rd rs1 rs2 : Reg) : Statement (.div rd rs1 rs2) := class_bin _ _ _ _
theorem mod (rd rs1 rs2 : Reg) : Statement (.mod rd rs1 rs2) := class_bin _ _ _ _
theorem addmod (rd rs1 rs2 rs3 : Reg) : Statement (.addmod rd rs1 rs2 rs3) := class_ter _ _ _ _ _
theorem mulmod (rd rs1 rs2 rs3 : Reg) : Statement (.mulmod rd rs1 rs2 rs3) := class_ter _ _ _ _ _
theorem sdiv (rd rs1 rs2 : Reg) : Statement (.sdiv rd rs1 rs2) := class_bin _ _ _ _
theorem smod (rd rs1 rs2 : Reg) : Statement (.smod rd rs1 rs2) := class_bin _ _ _ _
theorem lsh (rd rs1 rs2 : Reg) : Statement (.lsh rd rs1 rs2) := class_bin _ _ _ _
theorem rsh (rd rs1 rs2 : Reg) : Statement (.rsh rd rs1 rs2) := class_bin _ _ _ _
theorem srsh (rd rs1 rs2 : Reg) : Statement (.srsh rd rs1 rs2) := class_bin _ _ _ _
theorem lt (rd rs1 rs2 : Reg) : Statement (.lt rd rs1 rs2) := class_bin _ _ _ _
theorem gt (rd rs1 rs2 : Reg) : Statement (.gt rd rs1 rs2) := class_bin _ _ _ _
theorem slt (rd rs1 rs2 : Reg) : Statement (.slt rd rs1 rs2) := class_bin _ _ _ _
theorem sgt (rd rs1 rs2 : Reg) : Statement (.sgt rd rs1 rs2) := class_bin _ _ _ _
theorem cmp (rd rs1 rs2 : Reg) : Statement (.cmp rd rs1 rs2) := class_bin _ _ _ _
theorem sign (rd rs1 : Reg) : Statement (.sign rd rs1) := class_un _ _ _
theorem abs (rd rs1 : Reg) : Statement (.abs rd rs1) := class_un _ _ _
theorem neg (rd rs1 : Reg) : Statement (.neg rd rs1) := class_un _ _ _
theorem exp (rd rs1 rs2 : Reg) : Statement (.exp rd rs1 rs2) := class_bin _ _ _ _

end Sys2Proof.Laws.MaskMatch
end

