-- ==== Sys2Proof/Laws/Decoding.lean ====
section
/-! SUPPORT. What the decoder reads from a word, row by row and class by class (30_encoding.md R92, R99). -/

namespace Sys2Proof

/-- A word whose opcode has a row, that matches under the row's mask and whose length, if the class has one, is in
range, decodes to what the row builds (30_encoding.md R99 (4)). -/
theorem decode_eq_ok {w : CmdWord} {row : OpRow} (hr : opRow? (opcodeOf w) = some row)
    (hm : w &&& row.cls.mask = matchWord row.code)
    (hl : row.cls.usesLength = true → imm8Of w ≤ Config.dbufBytes) : decode w = .ok (row.build w) := by
  unfold decode
  rw [hr]
  have hl' : ¬(row.cls.usesLength = true ∧ Config.dbufBytes < imm8Of w) := fun h => by
    have := hl h.1
    omega
  simp only [hm, ne_eq, not_true_eq_false, if_false, hl']

/-- What a word the decoder reads has met (30_encoding.md R99 (4)). -/
theorem decode_ok_cases {w : CmdWord} {i : Instr} (h : decode w = .ok i) :
    ∃ row, opRow? (opcodeOf w) = some row ∧ w &&& row.cls.mask = matchWord row.code ∧
      (row.cls.usesLength = true → imm8Of w ≤ Config.dbufBytes) ∧ i = row.build w := by
  unfold decode at h
  split at h
  · exact absurd h (by simp)
  · rename_i row hrow
    split at h
    · exact absurd h (by simp)
    · split at h
      · exact absurd h (by simp)
      · rename_i hm hl
        injection h with h
        exact ⟨row, hrow, by simpa using hm, fun hu => by by_contra hc; exact hl ⟨hu, by omega⟩, h.symm⟩

/-- The row of an opcode stands in the table under that opcode. -/
theorem opRow?_some {op : BitVec 8} {row : OpRow} (h : opRow? op = some row) : row ∈ opTable ∧ row.code = op :=
  ⟨List.mem_of_find?_eq_some h, by simpa using List.find?_some h⟩

/-! ### The rows of the command map (30_encoding.md R98) -/

theorem opRow?_clr : opRow? 0x01#8 = some ⟨0x01#8, .z, fun w => .clr (rdOf w)⟩ := rfl
theorem opRow?_mov : opRow? 0x02#8 = some (unRow 0x02#8 .mov) := rfl
theorem opRow?_setb : opRow? 0x03#8 = some ⟨0x03#8, .ld, fun w => .setb (rdOf w) (imm8Of w)⟩ := rfl
theorem opRow?_b32 : opRow? 0x04#8 = some ⟨0x04#8, .st, fun w => .b32 (rs1Of w)⟩ := rfl
theorem opRow?_b20 : opRow? 0x05#8 = some ⟨0x05#8, .st, fun w => .b20 (rs1Of w)⟩ := rfl
theorem opRow?_wslice : opRow? 0x06#8 = some ⟨0x06#8, .stn, fun w => .wslice (rs1Of w) (imm8Of w)⟩ := rfl
theorem opRow?_padb : opRow? 0x07#8 = some ⟨0x07#8, .stn, fun w => .padb (rs1Of w) (imm8Of w)⟩ := rfl
theorem opRow?_u64 : opRow? 0x08#8 = some (unRow 0x08#8 .u64) := rfl
theorem opRow?_i64 : opRow? 0x09#8 = some (unRow 0x09#8 .i64) := rfl
theorem opRow?_u64o : opRow? 0x0A#8 = some (unRow 0x0A#8 .u64o) := rfl
theorem opRow?_isu64 : opRow? 0x0B#8 = some (unRow 0x0B#8 .isu64) := rfl
theorem opRow?_isu128 : opRow? 0x0C#8 = some (unRow 0x0C#8 .isu128) := rfl
theorem opRow?_add : opRow? 0x10#8 = some (binRow 0x10#8 .add) := rfl
theorem opRow?_addo : opRow? 0x11#8 = some (binRow 0x11#8 .addo) := rfl
theorem opRow?_sub : opRow? 0x12#8 = some (binRow 0x12#8 .sub) := rfl
theorem opRow?_subo : opRow? 0x13#8 = some (binRow 0x13#8 .subo) := rfl
theorem opRow?_sub64 : opRow? 0x14#8 = some (binRow 0x14#8 .sub64) := rfl
theorem opRow?_mul : opRow? 0x20#8 = some (binRow 0x20#8 .mul) := rfl
theorem opRow?_sqr : opRow? 0x21#8 = some (unRow 0x21#8 .sqr) := rfl
theorem opRow?_div : opRow? 0x30#8 = some (binRow 0x30#8 .div) := rfl
theorem opRow?_mod : opRow? 0x31#8 = some (binRow 0x31#8 .mod) := rfl
theorem opRow?_addmod : opRow? 0x40#8 = some (terRow 0x40#8 .addmod) := rfl
theorem opRow?_mulmod : opRow? 0x41#8 = some (terRow 0x41#8 .mulmod) := rfl
theorem opRow?_sdiv : opRow? 0x42#8 = some (binRow 0x42#8 .sdiv) := rfl
theorem opRow?_smod : opRow? 0x43#8 = some (binRow 0x43#8 .smod) := rfl
theorem opRow?_lsh : opRow? 0x50#8 = some (binRow 0x50#8 .lsh) := rfl
theorem opRow?_rsh : opRow? 0x51#8 = some (binRow 0x51#8 .rsh) := rfl
theorem opRow?_srsh : opRow? 0x52#8 = some (binRow 0x52#8 .srsh) := rfl
theorem opRow?_lt : opRow? 0x60#8 = some (binRow 0x60#8 .lt) := rfl
theorem opRow?_gt : opRow? 0x61#8 = some (binRow 0x61#8 .gt) := rfl
theorem opRow?_slt : opRow? 0x62#8 = some (binRow 0x62#8 .slt) := rfl
theorem opRow?_sgt : opRow? 0x63#8 = some (binRow 0x63#8 .sgt) := rfl
theorem opRow?_cmp : opRow? 0x64#8 = some (binRow 0x64#8 .cmp) := rfl
theorem opRow?_sign : opRow? 0x70#8 = some (unRow 0x70#8 .sign) := rfl
theorem opRow?_abs : opRow? 0x71#8 = some (unRow 0x71#8 .abs) := rfl
theorem opRow?_neg : opRow? 0x72#8 = some (unRow 0x72#8 .neg) := rfl
theorem opRow?_exp : opRow? 0x80#8 = some (binRow 0x80#8 .exp) := rfl

/-! ### One lemma per class (30_encoding.md R92) -/

section Classes
variable {op : BitVec 8}

theorem decode_z {mk : Reg → Instr} (h : opRow? op = some ⟨op, .z, fun w => mk (rdOf w)⟩) (rd : Reg) :
    decode (encodeZ op rd) = .ok (mk rd) := by
  have hc := Laws.MaskMatch.class_z op rd
  rw [decode_eq_ok (by rw [hc.1]; exact h) hc.2 (by simp [OpClass.usesLength])]
  simp [encodeZ]

theorem decode_un {mk : Reg → Reg → Instr} (h : opRow? op = some (unRow op mk)) (rd rs1 : Reg) :
    decode (encodeUn op rd rs1) = .ok (mk rd rs1) := by
  have hc := Laws.MaskMatch.class_un op rd rs1
  rw [decode_eq_ok (by rw [hc.1]; exact h) hc.2 (by simp [unRow, OpClass.usesLength])]
  simp [encodeUn, unRow]

theorem decode_bin {mk : Reg → Reg → Reg → Instr} (h : opRow? op = some (binRow op mk)) (rd rs1 rs2 : Reg) :
    decode (encodeBin op rd rs1 rs2) = .ok (mk rd rs1 rs2) := by
  have hc := Laws.MaskMatch.class_bin op rd rs1 rs2
  rw [decode_eq_ok (by rw [hc.1]; exact h) hc.2 (by simp [binRow, OpClass.usesLength])]
  simp [encodeBin, binRow]

theorem decode_ter {mk : Reg → Reg → Reg → Reg → Instr} (h : opRow? op = some (terRow op mk))
    (rd rs1 rs2 rs3 : Reg) : decode (encodeTer op rd rs1 rs2 rs3) = .ok (mk rd rs1 rs2 rs3) := by
  have hc := Laws.MaskMatch.class_ter op rd rs1 rs2 rs3
  rw [decode_eq_ok (by rw [hc.1]; exact h) hc.2 (by simp [terRow, OpClass.usesLength])]
  simp [encodeTer, terRow]

theorem decode_st {mk : Reg → Instr} (h : opRow? op = some ⟨op, .st, fun w => mk (rs1Of w)⟩) (rs1 : Reg) :
    decode (encodeSt op rs1) = .ok (mk rs1) := by
  have hc := Laws.MaskMatch.class_st op rs1
  rw [decode_eq_ok (by rw [hc.1]; exact h) hc.2 (by simp [OpClass.usesLength])]
  simp [encodeSt]

/-- A length in 0..64 survives its 8-bit field. -/
theorem toNat_length {n : Nat} (hn : n ≤ Config.dbufBytes) : (BitVec.ofNat 8 n).toNat = n := by
  have hn' : n ≤ 64 := hn
  rw [BitVec.toNat_ofNat]
  omega

theorem decode_ld {mk : Reg → Nat → Instr} (h : opRow? op = some ⟨op, .ld, fun w => mk (rdOf w) (imm8Of w)⟩)
    (rd : Reg) {n : Nat} (hn : n ≤ Config.dbufBytes) : decode (encodeLd op rd n) = .ok (mk rd n) := by
  have hc := Laws.MaskMatch.class_ld op rd n
  rw [decode_eq_ok (by rw [hc.1]; exact h) hc.2 (fun _ => by simpa [encodeLd, toNat_length hn] using hn)]
  simp [encodeLd, toNat_length hn]

theorem decode_stn {mk : Reg → Nat → Instr} (h : opRow? op = some ⟨op, .stn, fun w => mk (rs1Of w) (imm8Of w)⟩)
    (rs1 : Reg) {n : Nat} (hn : n ≤ Config.dbufBytes) : decode (encodeStn op rs1 n) = .ok (mk rs1 n) := by
  have hc := Laws.MaskMatch.class_stn op rs1 n
  rw [decode_eq_ok (by rw [hc.1]; exact h) hc.2 (fun _ => by simpa [encodeStn, toNat_length hn] using hn)]
  simp [encodeStn, toNat_length hn]

end Classes

end Sys2Proof
end

