-- ==== Sys2Proof/Laws/State.lean ====
section
/-! SUPPORT. One lemma per field per update of the state, so that no later proof unfolds a record update. -/

namespace Sys2Proof.Machine

/-! ### `State.setReg` -/

@[simp] theorem State.setReg_regs (s : State) (i : Reg) (v : U256) : (s.setReg i v).regs = s.regs.set i v := rfl
@[simp] theorem State.setReg_c (s : State) (i : Reg) (v : U256) : (s.setReg i v).c = s.c := rfl
@[simp] theorem State.setReg_ill (s : State) (i : Reg) (v : U256) : (s.setReg i v).ill = s.ill := rfl
@[simp] theorem State.setReg_ovr (s : State) (i : Reg) (v : U256) : (s.setReg i v).ovr = s.ovr := rfl
@[simp] theorem State.setReg_cause (s : State) (i : Reg) (v : U256) : (s.setReg i v).cause = s.cause := rfl
@[simp] theorem State.setReg_dbuf (s : State) (i : Reg) (v : U256) : (s.setReg i v).dbuf = s.dbuf := rfl
@[simp] theorem State.setReg_inFlight (s : State) (i : Reg) (v : U256) : (s.setReg i v).inFlight = s.inFlight := rfl
@[simp] theorem State.setReg_resetHeld (s : State) (i : Reg) (v : U256) : (s.setReg i v).resetHeld = s.resetHeld := rfl
@[simp] theorem State.setReg_host (s : State) (i : Reg) (v : U256) : (s.setReg i v).host = s.host := rfl
@[simp] theorem State.setReg_readData (s : State) (i : Reg) (v : U256) : (s.setReg i v).readData = s.readData := rfl
@[simp] theorem State.setReg_runFault (s : State) (i : Reg) (v : U256) : (s.setReg i v).runFault = s.runFault := rfl
@[simp] theorem State.setReg_resets (s : State) (i : Reg) (v : U256) : (s.setReg i v).resets = s.resets := rfl
@[simp] theorem State.setReg_draws (s : State) (i : Reg) (v : U256) : (s.setReg i v).draws = s.draws := rfl

/-! ### `State.setC` -/

@[simp] theorem State.setC_regs (s : State) (b : Bool) : (s.setC b).regs = s.regs := rfl
@[simp] theorem State.setC_c (s : State) (b : Bool) : (s.setC b).c = b := rfl
@[simp] theorem State.setC_ill (s : State) (b : Bool) : (s.setC b).ill = s.ill := rfl
@[simp] theorem State.setC_ovr (s : State) (b : Bool) : (s.setC b).ovr = s.ovr := rfl
@[simp] theorem State.setC_cause (s : State) (b : Bool) : (s.setC b).cause = s.cause := rfl
@[simp] theorem State.setC_dbuf (s : State) (b : Bool) : (s.setC b).dbuf = s.dbuf := rfl
@[simp] theorem State.setC_inFlight (s : State) (b : Bool) : (s.setC b).inFlight = s.inFlight := rfl
@[simp] theorem State.setC_resetHeld (s : State) (b : Bool) : (s.setC b).resetHeld = s.resetHeld := rfl
@[simp] theorem State.setC_host (s : State) (b : Bool) : (s.setC b).host = s.host := rfl
@[simp] theorem State.setC_readData (s : State) (b : Bool) : (s.setC b).readData = s.readData := rfl
@[simp] theorem State.setC_runFault (s : State) (b : Bool) : (s.setC b).runFault = s.runFault := rfl
@[simp] theorem State.setC_resets (s : State) (b : Bool) : (s.setC b).resets = s.resets := rfl
@[simp] theorem State.setC_draws (s : State) (b : Bool) : (s.setC b).draws = s.draws := rfl

/-! ### `State.setDbufByte` -/

@[simp] theorem State.setDbufByte_regs (s : State) (a : Nat) (b : Byte) : (s.setDbufByte a b).regs = s.regs := rfl
@[simp] theorem State.setDbufByte_c (s : State) (a : Nat) (b : Byte) : (s.setDbufByte a b).c = s.c := rfl
@[simp] theorem State.setDbufByte_ill (s : State) (a : Nat) (b : Byte) : (s.setDbufByte a b).ill = s.ill := rfl
@[simp] theorem State.setDbufByte_ovr (s : State) (a : Nat) (b : Byte) : (s.setDbufByte a b).ovr = s.ovr := rfl
@[simp] theorem State.setDbufByte_cause (s : State) (a : Nat) (b : Byte) : (s.setDbufByte a b).cause = s.cause := rfl
@[simp] theorem State.setDbufByte_dbuf (s : State) (a : Nat) (b : Byte) : (s.setDbufByte a b).dbuf = Memory.put s.dbuf a b := rfl
@[simp] theorem State.setDbufByte_inFlight (s : State) (a : Nat) (b : Byte) : (s.setDbufByte a b).inFlight = s.inFlight := rfl
@[simp] theorem State.setDbufByte_resetHeld (s : State) (a : Nat) (b : Byte) : (s.setDbufByte a b).resetHeld = s.resetHeld := rfl
@[simp] theorem State.setDbufByte_host (s : State) (a : Nat) (b : Byte) : (s.setDbufByte a b).host = s.host := rfl
@[simp] theorem State.setDbufByte_readData (s : State) (a : Nat) (b : Byte) : (s.setDbufByte a b).readData = s.readData := rfl
@[simp] theorem State.setDbufByte_runFault (s : State) (a : Nat) (b : Byte) : (s.setDbufByte a b).runFault = s.runFault := rfl
@[simp] theorem State.setDbufByte_resets (s : State) (a : Nat) (b : Byte) : (s.setDbufByte a b).resets = s.resets := rfl
@[simp] theorem State.setDbufByte_draws (s : State) (a : Nat) (b : Byte) : (s.setDbufByte a b).draws = s.draws := rfl

/-! ### `State.raiseIllegal` -/

@[simp] theorem State.raiseIllegal_regs (s : State) (e : DecodeError) : (s.raiseIllegal e).regs = s.regs := rfl
@[simp] theorem State.raiseIllegal_c (s : State) (e : DecodeError) : (s.raiseIllegal e).c = s.c := rfl
@[simp] theorem State.raiseIllegal_ill (s : State) (e : DecodeError) : (s.raiseIllegal e).ill = true := rfl
@[simp] theorem State.raiseIllegal_ovr (s : State) (e : DecodeError) : (s.raiseIllegal e).ovr = s.ovr := rfl
@[simp] theorem State.raiseIllegal_cause (s : State) (e : DecodeError) : (s.raiseIllegal e).cause = causeOf e := rfl
@[simp] theorem State.raiseIllegal_dbuf (s : State) (e : DecodeError) : (s.raiseIllegal e).dbuf = s.dbuf := rfl
@[simp] theorem State.raiseIllegal_inFlight (s : State) (e : DecodeError) : (s.raiseIllegal e).inFlight = s.inFlight := rfl
@[simp] theorem State.raiseIllegal_resetHeld (s : State) (e : DecodeError) : (s.raiseIllegal e).resetHeld = s.resetHeld := rfl
@[simp] theorem State.raiseIllegal_host (s : State) (e : DecodeError) : (s.raiseIllegal e).host = s.host := rfl
@[simp] theorem State.raiseIllegal_readData (s : State) (e : DecodeError) : (s.raiseIllegal e).readData = s.readData := rfl
@[simp] theorem State.raiseIllegal_runFault (s : State) (e : DecodeError) : (s.raiseIllegal e).runFault = true := rfl
@[simp] theorem State.raiseIllegal_resets (s : State) (e : DecodeError) : (s.raiseIllegal e).resets = s.resets := rfl
@[simp] theorem State.raiseIllegal_draws (s : State) (e : DecodeError) : (s.raiseIllegal e).draws = s.draws := rfl

/-! ### `State.dropWrite` -/

@[simp] theorem State.dropWrite_regs (s : State) (k : Cause) : (s.dropWrite k).regs = s.regs := rfl
@[simp] theorem State.dropWrite_c (s : State) (k : Cause) : (s.dropWrite k).c = s.c := rfl
@[simp] theorem State.dropWrite_ill (s : State) (k : Cause) : (s.dropWrite k).ill = s.ill := rfl
@[simp] theorem State.dropWrite_ovr (s : State) (k : Cause) : (s.dropWrite k).ovr = true := rfl
@[simp] theorem State.dropWrite_cause (s : State) (k : Cause) : (s.dropWrite k).cause = k := rfl
@[simp] theorem State.dropWrite_dbuf (s : State) (k : Cause) : (s.dropWrite k).dbuf = s.dbuf := rfl
@[simp] theorem State.dropWrite_inFlight (s : State) (k : Cause) : (s.dropWrite k).inFlight = s.inFlight := rfl
@[simp] theorem State.dropWrite_resetHeld (s : State) (k : Cause) : (s.dropWrite k).resetHeld = s.resetHeld := rfl
@[simp] theorem State.dropWrite_host (s : State) (k : Cause) : (s.dropWrite k).host = s.host := rfl
@[simp] theorem State.dropWrite_readData (s : State) (k : Cause) : (s.dropWrite k).readData = s.readData := rfl
@[simp] theorem State.dropWrite_runFault (s : State) (k : Cause) : (s.dropWrite k).runFault = true := rfl
@[simp] theorem State.dropWrite_resets (s : State) (k : Cause) : (s.dropWrite k).resets = s.resets := rfl
@[simp] theorem State.dropWrite_draws (s : State) (k : Cause) : (s.dropWrite k).draws = s.draws := rfl

/-! ### `State.ackStatus` -/

@[simp] theorem State.ackStatus_regs (s : State) (v : BitVec 32) : (s.ackStatus v).regs = s.regs := rfl
@[simp] theorem State.ackStatus_c (s : State) (v : BitVec 32) : (s.ackStatus v).c = s.c := rfl
@[simp] theorem State.ackStatus_ill (s : State) (v : BitVec 32) : (s.ackStatus v).ill = (s.ill && !v.getLsbD 2) := rfl
@[simp] theorem State.ackStatus_ovr (s : State) (v : BitVec 32) : (s.ackStatus v).ovr = (s.ovr && !v.getLsbD 3) := rfl
@[simp] theorem State.ackStatus_cause (s : State) (v : BitVec 32) : (s.ackStatus v).cause = if (s.ill && !v.getLsbD 2) || (s.ovr && !v.getLsbD 3) then s.cause else .noError := rfl
@[simp] theorem State.ackStatus_dbuf (s : State) (v : BitVec 32) : (s.ackStatus v).dbuf = s.dbuf := rfl
@[simp] theorem State.ackStatus_inFlight (s : State) (v : BitVec 32) : (s.ackStatus v).inFlight = s.inFlight := rfl
@[simp] theorem State.ackStatus_resetHeld (s : State) (v : BitVec 32) : (s.ackStatus v).resetHeld = s.resetHeld := rfl
@[simp] theorem State.ackStatus_host (s : State) (v : BitVec 32) : (s.ackStatus v).host = s.host := rfl
@[simp] theorem State.ackStatus_readData (s : State) (v : BitVec 32) : (s.ackStatus v).readData = s.readData := rfl
@[simp] theorem State.ackStatus_runFault (s : State) (v : BitVec 32) : (s.ackStatus v).runFault = s.runFault := rfl
@[simp] theorem State.ackStatus_resets (s : State) (v : BitVec 32) : (s.ackStatus v).resets = s.resets := rfl
@[simp] theorem State.ackStatus_draws (s : State) (v : BitVec 32) : (s.ackStatus v).draws = s.draws := rfl

/-! ### `State.accept` -/

@[simp] theorem State.accept_regs (s : State) (i : Instr) : (s.accept i).regs = s.regs := rfl
@[simp] theorem State.accept_c (s : State) (i : Instr) : (s.accept i).c = s.c := rfl
@[simp] theorem State.accept_ill (s : State) (i : Instr) : (s.accept i).ill = s.ill := rfl
@[simp] theorem State.accept_ovr (s : State) (i : Instr) : (s.accept i).ovr = s.ovr := rfl
@[simp] theorem State.accept_cause (s : State) (i : Instr) : (s.accept i).cause = s.cause := rfl
@[simp] theorem State.accept_dbuf (s : State) (i : Instr) : (s.accept i).dbuf = s.dbuf := rfl
@[simp] theorem State.accept_inFlight (s : State) (i : Instr) : (s.accept i).inFlight = some i := rfl
@[simp] theorem State.accept_resetHeld (s : State) (i : Instr) : (s.accept i).resetHeld = s.resetHeld := rfl
@[simp] theorem State.accept_host (s : State) (i : Instr) : (s.accept i).host = s.host := rfl
@[simp] theorem State.accept_readData (s : State) (i : Instr) : (s.accept i).readData = s.readData := rfl
@[simp] theorem State.accept_runFault (s : State) (i : Instr) : (s.accept i).runFault = s.runFault := rfl
@[simp] theorem State.accept_resets (s : State) (i : Instr) : (s.accept i).resets = s.resets := rfl
@[simp] theorem State.accept_draws (s : State) (i : Instr) : (s.accept i).draws = s.draws := rfl

/-! ### `State.release` -/

@[simp] theorem State.release_regs (s : State) : (s.release).regs = s.regs := rfl
@[simp] theorem State.release_c (s : State) : (s.release).c = s.c := rfl
@[simp] theorem State.release_ill (s : State) : (s.release).ill = s.ill := rfl
@[simp] theorem State.release_ovr (s : State) : (s.release).ovr = s.ovr := rfl
@[simp] theorem State.release_cause (s : State) : (s.release).cause = s.cause := rfl
@[simp] theorem State.release_dbuf (s : State) : (s.release).dbuf = s.dbuf := rfl
@[simp] theorem State.release_inFlight (s : State) : (s.release).inFlight = none := rfl
@[simp] theorem State.release_resetHeld (s : State) : (s.release).resetHeld = s.resetHeld := rfl
@[simp] theorem State.release_host (s : State) : (s.release).host = s.host := rfl
@[simp] theorem State.release_readData (s : State) : (s.release).readData = s.readData := rfl
@[simp] theorem State.release_runFault (s : State) : (s.release).runFault = s.runFault := rfl
@[simp] theorem State.release_resets (s : State) : (s.release).resets = s.resets := rfl
@[simp] theorem State.release_draws (s : State) : (s.release).draws = s.draws := rfl

/-! ### `State.withHost` -/

@[simp] theorem State.withHost_regs (s : State) (l : List HostAction) : (s.withHost l).regs = s.regs := rfl
@[simp] theorem State.withHost_c (s : State) (l : List HostAction) : (s.withHost l).c = s.c := rfl
@[simp] theorem State.withHost_ill (s : State) (l : List HostAction) : (s.withHost l).ill = s.ill := rfl
@[simp] theorem State.withHost_ovr (s : State) (l : List HostAction) : (s.withHost l).ovr = s.ovr := rfl
@[simp] theorem State.withHost_cause (s : State) (l : List HostAction) : (s.withHost l).cause = s.cause := rfl
@[simp] theorem State.withHost_dbuf (s : State) (l : List HostAction) : (s.withHost l).dbuf = s.dbuf := rfl
@[simp] theorem State.withHost_inFlight (s : State) (l : List HostAction) : (s.withHost l).inFlight = s.inFlight := rfl
@[simp] theorem State.withHost_resetHeld (s : State) (l : List HostAction) : (s.withHost l).resetHeld = s.resetHeld := rfl
@[simp] theorem State.withHost_host (s : State) (l : List HostAction) : (s.withHost l).host = l := rfl
@[simp] theorem State.withHost_readData (s : State) (l : List HostAction) : (s.withHost l).readData = s.readData := rfl
@[simp] theorem State.withHost_runFault (s : State) (l : List HostAction) : (s.withHost l).runFault = s.runFault := rfl
@[simp] theorem State.withHost_resets (s : State) (l : List HostAction) : (s.withHost l).resets = s.resets := rfl
@[simp] theorem State.withHost_draws (s : State) (l : List HostAction) : (s.withHost l).draws = s.draws := rfl

/-! ### `State.drive` -/

@[simp] theorem State.drive_regs (s : State) (d : BusData) : (s.drive d).regs = s.regs := rfl
@[simp] theorem State.drive_c (s : State) (d : BusData) : (s.drive d).c = s.c := rfl
@[simp] theorem State.drive_ill (s : State) (d : BusData) : (s.drive d).ill = s.ill := rfl
@[simp] theorem State.drive_ovr (s : State) (d : BusData) : (s.drive d).ovr = s.ovr := rfl
@[simp] theorem State.drive_cause (s : State) (d : BusData) : (s.drive d).cause = s.cause := rfl
@[simp] theorem State.drive_dbuf (s : State) (d : BusData) : (s.drive d).dbuf = s.dbuf := rfl
@[simp] theorem State.drive_inFlight (s : State) (d : BusData) : (s.drive d).inFlight = s.inFlight := rfl
@[simp] theorem State.drive_resetHeld (s : State) (d : BusData) : (s.drive d).resetHeld = s.resetHeld := rfl
@[simp] theorem State.drive_host (s : State) (d : BusData) : (s.drive d).host = s.host := rfl
@[simp] theorem State.drive_readData (s : State) (d : BusData) : (s.drive d).readData = d := rfl
@[simp] theorem State.drive_runFault (s : State) (d : BusData) : (s.drive d).runFault = s.runFault := rfl
@[simp] theorem State.drive_resets (s : State) (d : BusData) : (s.drive d).resets = s.resets := rfl
@[simp] theorem State.drive_draws (s : State) (d : BusData) : (s.drive d).draws = s.draws := rfl

/-! ### `State.nextDraw` -/

@[simp] theorem State.nextDraw_regs (s : State) : (s.nextDraw).regs = s.regs := rfl
@[simp] theorem State.nextDraw_c (s : State) : (s.nextDraw).c = s.c := rfl
@[simp] theorem State.nextDraw_ill (s : State) : (s.nextDraw).ill = s.ill := rfl
@[simp] theorem State.nextDraw_ovr (s : State) : (s.nextDraw).ovr = s.ovr := rfl
@[simp] theorem State.nextDraw_cause (s : State) : (s.nextDraw).cause = s.cause := rfl
@[simp] theorem State.nextDraw_dbuf (s : State) : (s.nextDraw).dbuf = s.dbuf := rfl
@[simp] theorem State.nextDraw_inFlight (s : State) : (s.nextDraw).inFlight = s.inFlight := rfl
@[simp] theorem State.nextDraw_resetHeld (s : State) : (s.nextDraw).resetHeld = s.resetHeld := rfl
@[simp] theorem State.nextDraw_host (s : State) : (s.nextDraw).host = s.host := rfl
@[simp] theorem State.nextDraw_readData (s : State) : (s.nextDraw).readData = s.readData := rfl
@[simp] theorem State.nextDraw_runFault (s : State) : (s.nextDraw).runFault = s.runFault := rfl
@[simp] theorem State.nextDraw_resets (s : State) : (s.nextDraw).resets = s.resets := rfl
@[simp] theorem State.nextDraw_draws (s : State) : (s.nextDraw).draws = s.draws + 1 := rfl

/-! ### `State.resetTo` -/

@[simp] theorem State.resetTo_regs (s : State) (held : Bool) : (s.resetTo held).regs = Vector.replicate 16 0 := rfl
@[simp] theorem State.resetTo_c (s : State) (held : Bool) : (s.resetTo held).c = false := rfl
@[simp] theorem State.resetTo_ill (s : State) (held : Bool) : (s.resetTo held).ill = false := rfl
@[simp] theorem State.resetTo_ovr (s : State) (held : Bool) : (s.resetTo held).ovr = false := rfl
@[simp] theorem State.resetTo_cause (s : State) (held : Bool) : (s.resetTo held).cause = .noError := rfl
@[simp] theorem State.resetTo_dbuf (s : State) (held : Bool) : (s.resetTo held).dbuf = [] := rfl
@[simp] theorem State.resetTo_inFlight (s : State) (held : Bool) : (s.resetTo held).inFlight = none := rfl
@[simp] theorem State.resetTo_resetHeld (s : State) (held : Bool) : (s.resetTo held).resetHeld = held := rfl
@[simp] theorem State.resetTo_host (s : State) (held : Bool) : (s.resetTo held).host = s.host := rfl
@[simp] theorem State.resetTo_readData (s : State) (held : Bool) : (s.resetTo held).readData = s.readData := rfl
@[simp] theorem State.resetTo_runFault (s : State) (held : Bool) : (s.resetTo held).runFault = s.runFault := rfl
@[simp] theorem State.resetTo_resets (s : State) (held : Bool) : (s.resetTo held).resets = s.resets + 1 := rfl
@[simp] theorem State.resetTo_draws (s : State) (held : Bool) : (s.resetTo held).draws = s.draws := rfl

/-! ### Reset -/

@[simp] theorem State.reset_regs : State.reset.regs = Vector.replicate 16 0 := rfl
@[simp] theorem State.reset_c : State.reset.c = false := rfl
@[simp] theorem State.reset_ill : State.reset.ill = false := rfl
@[simp] theorem State.reset_ovr : State.reset.ovr = false := rfl
@[simp] theorem State.reset_cause : State.reset.cause = .noError := rfl
@[simp] theorem State.reset_dbuf : State.reset.dbuf = [] := rfl
@[simp] theorem State.reset_inFlight : State.reset.inFlight = none := rfl
@[simp] theorem State.reset_resetHeld : State.reset.resetHeld = false := rfl
@[simp] theorem State.reset_host : State.reset.host = [] := rfl
@[simp] theorem State.reset_readData : State.reset.readData = .b32 0 := rfl
@[simp] theorem State.reset_runFault : State.reset.runFault = false := rfl
@[simp] theorem State.reset_resets : State.reset.resets = 0 := rfl
@[simp] theorem State.reset_draws : State.reset.draws = 0 := rfl

end Sys2Proof.Machine
end

