-- ==== Sys2Proof/Laws/Ops.lean ====
section
/-! SUPPORT. The laws of the shared operations over registers and DBUF: read after write, everything else unchanged,
the canonical form kept (10_state.md R33; 20_memory.md R61, R62; 00_scope.md R15). -/

namespace Sys2Proof.Machine

/-! ### Registers -/

@[simp] theorem State.reg_setReg_same (s : State) (i : Reg) (v : U256) : (s.setReg i v).reg i = v := by
  simp [State.reg]

theorem State.reg_setReg_of_ne (s : State) {i r : Reg} (v : U256) (h : r ≠ i) :
    (s.setReg i v).reg r = s.reg r := by
  have : i.val ≠ r.val := fun e => h (Fin.ext e.symm)
  simp [State.reg, Vector.getElem_set_ne, this]

theorem State.reg_setReg (s : State) (i r : Reg) (v : U256) :
    (s.setReg i v).reg r = if r = i then v else s.reg r := by
  split
  · subst r; exact s.reg_setReg_same i v
  · exact s.reg_setReg_of_ne v ‹_›

@[simp] theorem State.reg_setC (s : State) (b : Bool) (r : Reg) : (s.setC b).reg r = s.reg r := rfl
@[simp] theorem State.reg_setDbufByte (s : State) (a : Nat) (b : Byte) (r : Reg) :
    (s.setDbufByte a b).reg r = s.reg r := rfl
@[simp] theorem State.reg_release (s : State) (r : Reg) : s.release.reg r = s.reg r := rfl
@[simp] theorem State.reg_withHost (s : State) (l : List HostAction) (r : Reg) : (s.withHost l).reg r = s.reg r := rfl
@[simp] theorem State.reg_raiseIllegal (s : State) (e : DecodeError) (r : Reg) :
    (s.raiseIllegal e).reg r = s.reg r := rfl
@[simp] theorem State.reg_dropWrite (s : State) (k : Cause) (r : Reg) : (s.dropWrite k).reg r = s.reg r := rfl
@[simp] theorem State.reg_ackStatus (s : State) (v : BitVec 32) (r : Reg) : (s.ackStatus v).reg r = s.reg r := rfl
@[simp] theorem State.reg_accept (s : State) (i : Instr) (r : Reg) : (s.accept i).reg r = s.reg r := rfl
@[simp] theorem State.reg_drive (s : State) (d : BusData) (r : Reg) : (s.drive d).reg r = s.reg r := rfl
@[simp] theorem State.reg_nextDraw (s : State) (r : Reg) : s.nextDraw.reg r = s.reg r := rfl

@[simp] theorem State.reg_resetTo (s : State) (held : Bool) (r : Reg) : (s.resetTo held).reg r = 0#256 := by
  simp [State.reg]

/-- Two states with the same registers read alike. -/
theorem State.reg_congr {s t : State} (h : s.regs = t.regs) (r : Reg) : s.reg r = t.reg r := by
  simp [State.reg, h]

/-- A register file is what its registers read. -/
theorem State.regs_ext {s t : State} (h : ∀ r, s.reg r = t.reg r) : s.regs = t.regs := by
  apply Vector.ext
  intro k hk
  exact h ⟨k, hk⟩

/-! ### DBUF -/

@[simp] theorem Memory.byte?_put_same (m : Memory) (a : Nat) (b : Byte) :
    Memory.byte? (Memory.put m a b) a = some b := by
  induction m with
  | nil => simp [Memory.put, Memory.byte?]
  | cons c rest ih =>
    obtain ⟨k, x⟩ := c
    simp only [Memory.put]
    split
    · simp [Memory.byte?]
    · split
      · simp [Memory.byte?]
      · have : k ≠ a := by omega
        simp [Memory.byte?, this, ih]

theorem Memory.byte?_put_of_ne (m : Memory) {a a' : Nat} (b : Byte) (h : a' ≠ a) :
    Memory.byte? (Memory.put m a b) a' = Memory.byte? m a' := by
  have h' : a ≠ a' := h.symm
  induction m with
  | nil => simp [Memory.put, Memory.byte?, h']
  | cons c rest ih =>
    obtain ⟨k, x⟩ := c
    simp only [Memory.put]
    split
    · simp [Memory.byte?, h']
    · split
      · subst k; simp [Memory.byte?, h']
      · simp [Memory.byte?, ih]

theorem Memory.risesFrom_weaken {lo lo' : Nat} (m : Memory) (h : lo' ≤ lo) (hm : Memory.risesFrom lo m = true) :
    Memory.risesFrom lo' m = true := by
  cases m with
  | nil => rfl
  | cons c rest =>
    simp only [Memory.risesFrom, Bool.and_eq_true, decide_eq_true_eq] at hm ⊢
    exact ⟨⟨by omega, hm.1.2⟩, hm.2⟩

theorem Memory.risesFrom_put (m : Memory) (lo a : Nat) (b : Byte) (hlo : lo ≤ a) (ha : a < Config.dbufBytes)
    (hm : Memory.risesFrom lo m = true) : Memory.risesFrom lo (Memory.put m a b) = true := by
  induction m generalizing lo with
  | nil => simp [Memory.put, Memory.risesFrom, hlo, ha]
  | cons c rest ih =>
    obtain ⟨k, x⟩ := c
    simp only [Memory.risesFrom, Bool.and_eq_true, decide_eq_true_eq] at hm
    simp only [Memory.put]
    split
    · rename_i hak
      simp only [Memory.risesFrom, Bool.and_eq_true, decide_eq_true_eq]
      exact ⟨⟨hlo, ha⟩, ⟨by omega, hm.1.2⟩, hm.2⟩
    · split
      · rename_i hak
        subst hak
        simp only [Memory.risesFrom, Bool.and_eq_true, decide_eq_true_eq]
        exact ⟨⟨hlo, ha⟩, hm.2⟩
      · simp only [Memory.risesFrom, Bool.and_eq_true, decide_eq_true_eq]
        exact ⟨hm.1, ih (k + 1) (by omega) hm.2⟩

/-- Writing a byte of DBUF keeps the canonical form. -/
theorem Memory.wf_put (m : Memory) (a : Nat) (b : Byte) (ha : a < Config.dbufBytes) (hm : Memory.wf m = true) :
    Memory.wf (Memory.put m a b) = true :=
  Memory.risesFrom_put m 0 a b (Nat.zero_le a) ha hm

/-- The memory of the reset state is in canonical form. -/
theorem State.reset_dbuf_wf : Memory.wf State.reset.dbuf = true := rfl

@[simp] theorem State.dbufByte_setDbufByte_same (s : State) (a : Nat) (b : Byte) :
    (s.setDbufByte a b).dbufByte a = b := by
  simp [State.dbufByte]

theorem State.dbufByte_setDbufByte_of_ne (s : State) {a a' : Nat} (b : Byte) (h : a' ≠ a) :
    (s.setDbufByte a b).dbufByte a' = s.dbufByte a' := by
  simp [State.dbufByte, State.unwrittenByte, Memory.byte?_put_of_ne _ _ h]

/-- Two states with the same written bytes and the same reset number read DBUF alike. -/
theorem State.dbufByte_congr {s t : State} (h : s.dbuf = t.dbuf) (hr : s.resets = t.resets) (a : Nat) :
    s.dbufByte a = t.dbufByte a := by
  simp [State.dbufByte, State.unwrittenByte, h, hr]

@[simp] theorem State.dbufByte_setReg (s : State) (i : Reg) (v : U256) (a : Nat) :
    (s.setReg i v).dbufByte a = s.dbufByte a := rfl
@[simp] theorem State.dbufByte_setC (s : State) (b : Bool) (a : Nat) : (s.setC b).dbufByte a = s.dbufByte a := rfl
@[simp] theorem State.dbufByte_release (s : State) (a : Nat) : s.release.dbufByte a = s.dbufByte a := rfl
@[simp] theorem State.dbufByte_withHost (s : State) (l : List HostAction) (a : Nat) :
    (s.withHost l).dbufByte a = s.dbufByte a := rfl
@[simp] theorem State.dbufByte_raiseIllegal (s : State) (e : DecodeError) (a : Nat) :
    (s.raiseIllegal e).dbufByte a = s.dbufByte a := rfl
@[simp] theorem State.dbufByte_dropWrite (s : State) (k : Cause) (a : Nat) :
    (s.dropWrite k).dbufByte a = s.dbufByte a := rfl
@[simp] theorem State.dbufByte_ackStatus (s : State) (v : BitVec 32) (a : Nat) :
    (s.ackStatus v).dbufByte a = s.dbufByte a := rfl
@[simp] theorem State.dbufByte_accept (s : State) (i : Instr) (a : Nat) : (s.accept i).dbufByte a = s.dbufByte a := rfl
@[simp] theorem State.dbufByte_drive (s : State) (d : BusData) (a : Nat) : (s.drive d).dbufByte a = s.dbufByte a := rfl
@[simp] theorem State.dbufByte_nextDraw (s : State) (a : Nat) : s.nextDraw.dbufByte a = s.dbufByte a := rfl

/-! ### `MemWrite` -/

/-- `MemWrite` changes the content of DBUF and nothing else of the state. -/
theorem State.memWrite_eq (s : State) (addr n v : Nat) :
    s.memWrite addr n v = { s with dbuf := (s.memWrite addr n v).dbuf } := by
  induction n generalizing v with
  | zero => rfl
  | succ n ih =>
    simp only [State.memWrite]
    rw [ih (v / 256)]
    rfl

@[simp] theorem State.memWrite_regs (s : State) (addr n v : Nat) : (s.memWrite addr n v).regs = s.regs := by
  rw [s.memWrite_eq]
@[simp] theorem State.memWrite_c (s : State) (addr n v : Nat) : (s.memWrite addr n v).c = s.c := by
  rw [s.memWrite_eq]
@[simp] theorem State.memWrite_ill (s : State) (addr n v : Nat) : (s.memWrite addr n v).ill = s.ill := by
  rw [s.memWrite_eq]
@[simp] theorem State.memWrite_ovr (s : State) (addr n v : Nat) : (s.memWrite addr n v).ovr = s.ovr := by
  rw [s.memWrite_eq]
@[simp] theorem State.memWrite_cause (s : State) (addr n v : Nat) : (s.memWrite addr n v).cause = s.cause := by
  rw [s.memWrite_eq]
@[simp] theorem State.memWrite_inFlight (s : State) (addr n v : Nat) :
    (s.memWrite addr n v).inFlight = s.inFlight := by
  rw [s.memWrite_eq]
@[simp] theorem State.memWrite_resetHeld (s : State) (addr n v : Nat) :
    (s.memWrite addr n v).resetHeld = s.resetHeld := by
  rw [s.memWrite_eq]
@[simp] theorem State.memWrite_host (s : State) (addr n v : Nat) : (s.memWrite addr n v).host = s.host := by
  rw [s.memWrite_eq]
@[simp] theorem State.memWrite_readData (s : State) (addr n v : Nat) :
    (s.memWrite addr n v).readData = s.readData := by
  rw [s.memWrite_eq]
@[simp] theorem State.memWrite_runFault (s : State) (addr n v : Nat) :
    (s.memWrite addr n v).runFault = s.runFault := by
  rw [s.memWrite_eq]
@[simp] theorem State.memWrite_resets (s : State) (addr n v : Nat) : (s.memWrite addr n v).resets = s.resets := by
  rw [s.memWrite_eq]
@[simp] theorem State.memWrite_draws (s : State) (addr n v : Nat) : (s.memWrite addr n v).draws = s.draws := by
  rw [s.memWrite_eq]
@[simp] theorem State.reg_memWrite (s : State) (addr n v : Nat) (r : Reg) :
    (s.memWrite addr n v).reg r = s.reg r := by
  simp [State.reg]

/-- Outside the bytes it names, `MemWrite` changes nothing (00_scope.md R15). -/
theorem State.dbufByte_memWrite_outside (s : State) (addr n v a : Nat) (h : a < addr ∨ addr + n ≤ a) :
    (s.memWrite addr n v).dbufByte a = s.dbufByte a := by
  induction n generalizing v with
  | zero => rfl
  | succ n ih =>
    simp only [State.memWrite]
    rw [State.dbufByte_setDbufByte_of_ne _ _ (by omega), ih _ (by omega)]

/-- Byte `i` of the bytes `MemWrite` names is bits `8(n-1-i)+7 : 8(n-1-i)` of the value (00_scope.md R15). -/
theorem State.dbufByte_memWrite_inside (s : State) (addr n v i : Nat) (h : i < n) :
    (s.memWrite addr n v).dbufByte (addr + i) = BitVec.ofNat 8 (v / 2 ^ (8 * (n - 1 - i)) % 256) := by
  induction n generalizing v with
  | zero => omega
  | succ n ih =>
    simp only [State.memWrite]
    by_cases hi : i = n
    · subst hi
      simp
    · rw [State.dbufByte_setDbufByte_of_ne _ _ (by omega), ih (v / 256) (by omega), Nat.div_div_eq_div_mul]
      have : 256 * 2 ^ (8 * (n - 1 - i)) = 2 ^ (8 * (n + 1 - 1 - i)) := by
        rw [show (8 * (n + 1 - 1 - i)) = 8 + 8 * (n - 1 - i) by omega, pow_add]
        norm_num
      rw [this]

/-- `MemWrite` inside DBUF keeps the canonical form. -/
theorem State.memWrite_wf (s : State) (addr n v : Nat) (h : addr + n ≤ Config.dbufBytes)
    (hs : Memory.wf s.dbuf = true) : Memory.wf (s.memWrite addr n v).dbuf = true := by
  induction n generalizing v with
  | zero => exact hs
  | succ n ih => exact Memory.wf_put _ _ _ (by omega) (ih _ (by omega))

/-! ### `MemRead` -/

/-- `MemRead` of states that read DBUF alike gives the same value. -/
theorem State.memRead_congr {s t : State} (h : ∀ a, s.dbufByte a = t.dbufByte a) (addr n : Nat) :
    s.memRead addr n = t.memRead addr n := by
  induction n with
  | zero => rfl
  | succ n ih => simp [State.memRead, ih, h]

/-- The value `MemRead` gives is below 2^(8n) (40_conversion.md R124). -/
theorem State.memRead_lt (s : State) (addr n : Nat) : s.memRead addr n < 2 ^ (8 * n) := by
  induction n with
  | zero => simp [State.memRead]
  | succ n ih =>
    have hb := (s.dbufByte (addr + n)).isLt
    simp only [State.memRead]
    rw [show 8 * (n + 1) = 8 * n + 8 by ring, pow_add]
    omega

/-- Reading back what `MemWrite` wrote gives the value modulo 2^(8n) (00_scope.md R15). -/
theorem State.memRead_memWrite (s : State) (addr n v : Nat) :
    (s.memWrite addr n v).memRead addr n = v % 2 ^ (8 * n) := by
  suffices h : ∀ k, k ≤ n → (s.memWrite addr n v).memRead addr k = v / 2 ^ (8 * (n - k)) % 2 ^ (8 * k) by
    have := h n le_rfl
    simpa using this
  intro k hk
  induction k with
  | zero => simp [State.memRead, Nat.mod_one]
  | succ k ih =>
    simp only [State.memRead]
    rw [ih (by omega), s.dbufByte_memWrite_inside addr n v k (by omega)]
    have hx : n - k = (n - (k + 1)) + 1 := by omega
    have hy : n - 1 - k = n - (k + 1) := by omega
    rw [hx, hy, show 8 * (n - (k + 1) + 1) = 8 * (n - (k + 1)) + 8 by ring, pow_add, ← Nat.div_div_eq_div_mul,
      show 8 * (k + 1) = 8 * k + 8 by ring, pow_add]
    generalize v / 2 ^ (8 * (n - (k + 1))) = u
    have h2 : u % (2 ^ (8 * k) * 2 ^ 8) = u / 2 ^ 8 % 2 ^ (8 * k) * 2 ^ 8 + u % 2 ^ 8 := by
      rw [mul_comm, Nat.mod_mul]
      ring
    rw [h2, BitVec.toNat_ofNat]
    omega

end Sys2Proof.Machine
end

