-- ==== Sys2Proof/Laws/Exec.lean ====
section
/-! SUPPORT. What each operand form, and so each command, can do: its registers, C or its DBUF bytes, and nothing
else. -/

namespace Sys2Proof.Machine

/-! ### Frames of the updates -/

theorem writesRegs_setReg (s : State) (rd : Reg) (v : U256) : WritesRegs [rd] s (s.setReg rd v) := by
  refine ⟨⟨fun r hr => ?_, fun _ => rfl, ⟨rfl, rfl, rfl, rfl⟩, ⟨rfl, rfl, rfl, rfl, rfl, rfl⟩⟩, rfl⟩
  exact s.reg_setReg_of_ne v (by simpa using hr)

theorem writesRegsAndC_setReg_setC (s : State) (rd : Reg) (v : U256) (b : Bool) :
    WritesRegsAndC [rd] s ((s.setReg rd v).setC b) := by
  refine ⟨fun r hr => ?_, fun _ => rfl, ⟨rfl, rfl, rfl, rfl⟩, ⟨rfl, rfl, rfl, rfl, rfl, rfl⟩⟩
  exact s.reg_setReg_of_ne v (by simpa using hr)

theorem writesDbuf_memWrite (s : State) (addr n v : Nat) : WritesDbuf addr n s (s.memWrite addr n v) := by
  refine ⟨fun r _ => by simp, by simp, fun a ha => s.dbufByte_memWrite_outside addr n v a ha, ?_, ?_⟩
  · exact ⟨by simp, by simp, by simp, by simp⟩
  · exact ⟨by simp, by simp, by simp, by simp, by simp, by simp⟩

/-- The write-back of SDIV and SMOD changes registers only. -/
theorem writeBack_eq (rs1 rs2 : Reg) (a b : U256) (s : State) :
    writeBack rs1 rs2 a b s = { s with regs := (writeBack rs1 rs2 a b s).regs } := by
  simp only [writeBack]
  split <;> split <;> rfl

/-- What the write-back leaves in a register (44_modular.md R200). -/
theorem reg_writeBack (rs1 rs2 : Reg) (a b : U256) (s : State) (r : Reg) :
    (writeBack rs1 rs2 a b s).reg r =
      if r = rs2 ∧ isneg b = true then negWrap b
      else if r = rs1 ∧ isneg a = true then negWrap a else s.reg r := by
  simp only [writeBack]
  by_cases hb : isneg b = true <;> by_cases ha : isneg a = true <;>
    simp [ha, hb, State.reg_setReg]

/-! ### Inversion: what a command that completes has done -/

/-- A command that completes has changed registers and C only, or has written its value to bytes inside DBUF. -/
theorem exec_next_cases {i : Instr} {s t : State} (h : exec i s = .next t) :
    (∃ regs c, t = { s with regs := regs, c := c }) ∨
    (∃ addr n v, addr + n ≤ Config.dbufBytes ∧ t = s.memWrite addr n v) := by
  have hx : ∀ {rs1 addr n}, exportForm rs1 addr n s = .next t →
      (∃ addr n v, addr + n ≤ Config.dbufBytes ∧ t = s.memWrite addr n v) := by
    intro rs1 addr n hx
    simp only [exportForm] at hx
    split at hx
    · exact ⟨_, _, _, ‹_›, by injection hx with hx; exact hx.symm⟩
    · exact absurd hx (by simp)
  have hr : ∀ {x : State}, (∃ regs c, x = { s with regs := regs, c := c }) →
      (Host.Outcome.next x : Result) = .next t → ∃ regs c, t = { s with regs := regs, c := c } := by
    intro x hx he
    injection he with he
    exact he ▸ hx
  cases i with
  | b32 rs1 => exact .inr (hx (rs1 := rs1) (addr := 0) (n := 32) h)
  | b20 rs1 => exact .inr (hx (rs1 := rs1) (addr := 0) (n := 20) h)
  | padb rs1 n => exact .inr (hx (rs1 := rs1) (addr := 0) (n := n) h)
  | wslice rs1 n =>
    simp only [exec, execWslice] at h
    split at h
    · exact .inr (hx h)
    · exact .inr (hx h)
  | setb rd n =>
    simp only [exec, execSetb, importForm] at h
    split at h
    · exact .inl (hr ⟨_, _, rfl⟩ h)
    · exact absurd h (by simp)
  | sdiv rd rs1 rs2 =>
    refine .inl (hr ?_ h)
    rw [writeBack_eq]
    exact ⟨_, _, rfl⟩
  | smod rd rs1 rs2 =>
    refine .inl (hr ?_ h)
    rw [writeBack_eq]
    exact ⟨_, _, rfl⟩
  | _ => exact .inl (hr ⟨_, _, rfl⟩ h)

end Sys2Proof.Machine
end

