-- ==== Sys2Proof/Laws/Step.lean ====
section
/-! SUPPORT. What one step can do: which action lands, or which command completes. -/

namespace Sys2Proof.Machine

/-- When an action lands, the step is that action on the state with it taken from the list. -/
theorem step_of_lands {a : HostAction} {rest : List HostAction} {s : State} (h : Lands a rest s) :
    step s = performAction a (s.withHost rest) := by
  obtain ⟨hh, hi⟩ := h
  unfold step
  rw [hh]
  rcases hi with hi | hi
  · rw [hi]
  · cases hf : s.inFlight with
    | none => rfl
    | some i => simp [hi]

/-- When nothing lands while a command is in progress, the step is its completion. -/
theorem step_completes {i : Instr} {s : State} (hi : s.inFlight = some i)
    (hh : ∀ a ∈ s.host.head?, a.whileBusy = false) : step s = complete i s := by
  unfold step
  rw [hi]
  cases hl : s.host with
  | nil => rfl
  | cons a rest =>
    have : a.whileBusy = false := hh a (by simp [hl])
    simp [this]

/-- Every step is the landing of an action, the completion of the command in progress, or nothing at all on an idle
core. -/
theorem step_cases (s : State) :
    (∃ a rest, Lands a rest s ∧ step s = performAction a (s.withHost rest)) ∨
    (∃ i, s.inFlight = some i ∧ step s = complete i s) ∨
    (s.inFlight = none ∧ s.host = [] ∧ step s = .next s) := by
  cases hi : s.inFlight with
  | none =>
    cases hh : s.host with
    | nil => exact .inr (.inr ⟨rfl, rfl, by simp [step, hi, hh]⟩)
    | cons a rest => exact .inl ⟨a, rest, ⟨hh, .inl hi⟩, step_of_lands ⟨hh, .inl hi⟩⟩
  | some i =>
    cases hh : s.host with
    | nil => exact .inr (.inl ⟨i, rfl, step_completes hi (by simp [hh])⟩)
    | cons a rest =>
      by_cases hw : a.whileBusy = true
      · exact .inl ⟨a, rest, ⟨hh, .inr hw⟩, step_of_lands ⟨hh, .inr hw⟩⟩
      · exact .inr (.inl ⟨i, rfl, step_completes hi (by simpa [hh] using hw)⟩)

/-- An access inside the window, by the one host, out of reset, is the access itself. -/
theorem guardAccess_theHost {offset : Nat} {s : State} (access : Result) (ho : offset < Config.windowBytes)
    (hr : s.resetHeld = false) : guardAccess offset .theHost s access = access := by
  simp [guardAccess, Nat.not_le.mpr ho, hr]

/-- What an access that answers a next state has met: the access was not seen, or it was the one host's, out of
reset. -/
theorem guardAccess_next {offset : Nat} {ag : Agent} {s t : State} {access : Result}
    (h : guardAccess offset ag s access = .next t) :
    (Config.windowBytes ≤ offset ∧ t = s) ∨
    (offset < Config.windowBytes ∧ s.resetHeld = false ∧ ag = .theHost ∧ access = .next t) := by
  unfold guardAccess at h
  split at h
  · injection h with h
    exact .inl ⟨‹_›, h.symm⟩
  · split at h
    · exact absurd h (by simp)
    · cases ag with
      | another => exact absurd h (by simp)
      | theHost => exact .inr ⟨by omega, by simpa using ‹¬s.resetHeld = true›, rfl, h⟩

/-- What a host write that answers a next state has done: a command word written to CMD, an acknowledgement, a
reserved offset, or a DBUF byte. -/
theorem hostWrite_next {offset : Nat} {d : BusData} {s t : State} (ho : offset < Config.windowBytes)
    (h : hostWrite offset d s = .next t) :
    (offset = cmdOffset ∧ ∃ w, d = .b32 w ∧ writeCmd w s = .next t) ∨
    (offset = statusOffset ∧ ∃ v, d = .b32 v ∧ t = s.ackStatus v) ∨
    (reservedOffset ≤ offset ∧ offset < dbufOffset ∧ t = s) ∨
    (∃ k b, k < Config.dbufBytes ∧ offset = dbufOffset + k ∧ d = .b8 b ∧ writeDbuf k b s = .next t) := by
  unfold hostWrite at h
  split at h
  · cases d with
    | b8 | b16 => exact absurd h (by simp)
    | b32 v =>
      simp only at h
      split at h
      · exact .inl ⟨‹_›, v, rfl, h⟩
      · split at h
        · injection h with h
          exact .inr (.inl ⟨‹_›, v, rfl, h.symm⟩)
        · exact absurd h (by simp)
  · split at h
    · injection h with h
      exact .inr (.inr (.inl ⟨by omega, ‹_›, h.symm⟩))
    · cases d with
      | b8 b =>
        simp only [reservedOffset, dbufOffset, Config.windowBytes] at *
        exact .inr (.inr (.inr ⟨offset - 64, b, show offset - 64 < 64 by omega, by omega, rfl, h⟩))
      | b16 | b32 => exact absurd h (by simp)

/-- A host read that answers a next state has driven some data, and taken at most one free draw; the core is
otherwise unchanged (20_memory.md R73). -/
theorem hostRead_next {offset : Nat} {w : Width} {s t : State} (h : hostRead offset w s = .next t) :
    ∃ d, t = s.drive d ∨ t = (s.drive d).nextDraw := by
  have key : ∀ {x : State}, (∃ d, x = s.drive d ∨ x = (s.drive d).nextDraw) →
      (Host.Outcome.next x : Result) = .next t → ∃ d, t = s.drive d ∨ t = (s.drive d).nextDraw := by
    intro x hx he
    injection he with he
    exact he ▸ hx
  unfold hostRead at h
  split at h
  · cases w with
    | w8 | w16 => exact absurd h (by simp)
    | w32 =>
      simp only at h
      split at h
      · exact key ⟨_, .inl rfl⟩ h
      · split at h
        · unfold readStatus at h
          refine key ?_ h
          split
          · exact ⟨_, .inr rfl⟩
          · exact ⟨_, .inl rfl⟩
        · exact absurd h (by simp)
  · split at h
    · exact key ⟨_, .inl rfl⟩ h
    · cases w with
      | w8 =>
        simp only [readDbuf] at h
        split at h
        · exact key ⟨_, .inr rfl⟩ h
        · exact key ⟨_, .inl rfl⟩ h
      | w16 | w32 => exact absurd h (by simp)

/-- What a CMD write that answers a next state has done: dropped, illegal, accepted only, or run. -/
theorem writeCmd_next {w : CmdWord} {s t : State} (h : writeCmd w s = .next t) :
    (s.busy = true ∧ t = s.dropWrite .cmdBusy) ∨
    (s.busy = false ∧ ∃ e, decode w = .error e ∧ t = s.raiseIllegal e) ∨
    (s.busy = false ∧ ∃ i, decode w = .ok i ∧ s.overlapNext = true ∧ t = s.accept i) ∨
    (s.busy = false ∧ ∃ i, decode w = .ok i ∧ s.overlapNext = false ∧ exec i s = .next t) := by
  unfold writeCmd at h
  split at h
  · injection h with h
    exact .inl ⟨‹_›, h.symm⟩
  · have hb : s.busy = false := by simpa using ‹¬s.busy = true›
    unfold acceptWord at h
    cases hd : decode w with
    | error e =>
      simp only [hd] at h
      injection h with h
      exact .inr (.inl ⟨hb, e, rfl, h.symm⟩)
    | ok i =>
      simp only [hd] at h
      split at h
      · injection h with h
        exact .inr (.inr (.inl ⟨hb, i, rfl, ‹_›, h.symm⟩))
      · exact .inr (.inr (.inr ⟨hb, i, rfl, by simpa using ‹¬s.overlapNext = true›, h⟩))

/-- What a DBUF write that answers a next state has done: dropped, or stored. -/
theorem writeDbuf_next {k : Nat} {b : Byte} {s t : State} (h : writeDbuf k b s = .next t) :
    (s.busy = true ∧ t = s.dropWrite .dbufBusy) ∨ (s.busy = false ∧ t = s.setDbufByte k b) := by
  unfold writeDbuf at h
  split at h
  · injection h with h
    exact .inl ⟨‹_›, h.symm⟩
  · injection h with h
    exact .inr ⟨by simpa using ‹¬s.busy = true›, h.symm⟩

/-- A run of one step more is the run from the step's next state. -/
theorem core_run_succ {k : Nat} {s t : State} (h : step s = .next t) :
    Sys2Proof.core.run (k + 1) s = Sys2Proof.core.run k t := by
  have hs : Sys2Proof.core.step s = .next t := h
  simp only [Host.Core.run, hs]

/-- The final read of a run (70_reset_and_hazards.md R294) answers: it returns STATUS as observed, with BUSY = 0, leaves
the host no action, and changes nothing that is observed. -/
theorem step_atFinalRead {s : State} (h : s.atFinalRead = true) :
    ∃ t, step s = .next t ∧ t.readData = .b32 s.observed.status ∧ s.busy = false ∧ t.host = [] ∧
      t.observed = s.observed := by
  unfold State.atFinalRead at h
  split at h
  · next a hh =>
    obtain ⟨e, ag, wb⟩ := a
    simp only [HostAction.readsStatus, Bool.and_eq_true, decide_eq_true_eq, Bool.not_eq_true'] at h
    obtain ⟨⟨⟨rfl, rfl⟩, hb⟩, hr⟩ := h
    have hi : s.inFlight = none := by simpa [State.busy] using hb
    refine ⟨(s.withHost []).drive (.b32 s.statusWord), ?_, rfl, hb, rfl, rfl⟩
    rw [step_of_lands ⟨hh, .inl hi⟩]
    simp only [performAction]
    rw [guardAccess_theHost (s := s.withHost []) _ (by decide) hr]
    simp [hostRead, readStatus, State.statusWord, State.statusWith, State.busy, hi]
  all_goals exact absurd h (by simp)

end Sys2Proof.Machine
end

