-- ==== Sys2Proof/Tests/Slice0.lean ====
section
/-! SUPPORT. Tests. Expected results are those of the spec: the encoding examples of files 30 and 40 to 48, and the
rows V40 to V48, D1 to D15 and S1 to S4 of 95_test_vectors.md. The witnesses at the end show a concrete state and
operands that meet the hypotheses of each obligation that has some. -/

namespace Sys2Proof.Tests

open Sys2Proof.Machine

/-! ### Helpers -/

/-- x1 to x4 and C as given, everything else as after reset. -/
def cpu (x1 x2 x3 x4 : Nat) (c : Bool := false) : State :=
  { State.reset with
    regs := #v[0, .ofNat 256 x1, .ofNat 256 x2, .ofNat 256 x3, .ofNat 256 x4, 0, 0, 0, 0, 0, 0, 0, 0, 0, 0, 0], c := c }

/-- The bytes `bs` written from `DBUF[0]` on. -/
def withBytes (bs : List Byte) (s : State) : State :=
  { s with dbuf := (List.range bs.length).zip bs }

/-- Every byte of DBUF holds 0xEE, as in the V40 rows. -/
def allEE (s : State) : State := withBytes (List.replicate 64 0xEE#8) s

/-- The answer of the step that runs the word `w` from `s`. -/
def run (w : Nat) (s : State) : Result := step (s.withFetchWord 32 w)

/-- A register after a step, none where it stops. -/
def regOf (r : Reg) : Result → Option Nat
  | .next t => some (t.reg r).toNat
  | .fault _ | .refused _ => none

/-- A register and C after a step. -/
def regAndC (r : Reg) : Result → Option (Nat × Bool)
  | .next t => some ((t.reg r).toNat, t.c)
  | .fault _ | .refused _ => none

/-- `DBUF[0..n-1]` after a step, written bytes only. -/
def bytesOf (n : Nat) : Result → Option (List (Option Byte))
  | .next t => some ((List.range n).map (Memory.byte? t.dbuf))
  | .fault _ | .refused _ => none

/-- STATUS after a step. -/
def statusOf : Result → Option (BitVec 32)
  | .next t => some t.statusWord
  | .fault _ | .refused _ => none

/-- The state with one more host action in front. -/
def facing (a : HostAction) (s : State) : State := { s with host := a :: s.host }

/-- The state after a step, or `s0` where it stops. -/
def andThen (s0 : State) : Result → State
  | .next t => t
  | .fault _ | .refused _ => s0

/-! ### WellFormed: an ill-formed term for each check -/

theorem test_wf_refuses_setb_65 : Instr.wf (.setb 1 65) = false := by decide
theorem test_wf_refuses_wslice_255 : Instr.wf (.wslice 5 255) = false := by decide
theorem test_wf_refuses_padb_65 : Instr.wf (.padb 5 65) = false := by decide
theorem test_wf_allows_lengths_0_and_64 :
    Instr.wf (.setb 1 0) = true ∧ Instr.wf (.wslice 1 64) = true ∧ Instr.wf (.padb 1 64) = true := by decide

/-! ### Decoding: the examples of files 40 to 48, and one word of each family written out field by field (R91) -/

theorem test_decode_conversion_registers :
    decode 0x01300000#32 = .ok (.clr 3) ∧ decode 0x02120000#32 = .ok (.mov 1 2) ∧
    decode 0x08120000#32 = .ok (.u64 1 2) ∧ decode 0x09120000#32 = .ok (.i64 1 2) ∧
    decode 0x0A120000#32 = .ok (.u64o 1 2) ∧ decode 0x0B120000#32 = .ok (.isu64 1 2) ∧
    decode 0x0C120000#32 = .ok (.isu128 1 2) := by decide
theorem test_decode_conversion_bytes :
    decode 0x03100020#32 = .ok (.setb 1 32) ∧ decode 0x04050000#32 = .ok (.b32 5) ∧
    decode 0x05050000#32 = .ok (.b20 5) ∧ decode 0x06050028#32 = .ok (.wslice 5 40) ∧
    decode 0x07050028#32 = .ok (.padb 5 40) := by decide
theorem test_decode_addsub :
    decode 0x10123000#32 = .ok (.add 1 2 3) ∧ decode 0x11123000#32 = .ok (.addo 1 2 3) ∧
    decode 0x12123000#32 = .ok (.sub 1 2 3) ∧ decode 0x13123000#32 = .ok (.subo 1 2 3) ∧
    decode 0x14123000#32 = .ok (.sub64 1 2 3) := by decide
theorem test_decode_multiply_divide :
    decode 0x20123000#32 = .ok (.mul 1 2 3) ∧ decode 0x21120000#32 = .ok (.sqr 1 2) ∧
    decode 0x30123000#32 = .ok (.div 1 2 3) ∧ decode 0x31123000#32 = .ok (.mod 1 2 3) := by decide
theorem test_decode_modular :
    decode 0x40123400#32 = .ok (.addmod 1 2 3 4) ∧ decode 0x41123400#32 = .ok (.mulmod 1 2 3 4) ∧
    decode 0x42123000#32 = .ok (.sdiv 1 2 3) ∧ decode 0x43123000#32 = .ok (.smod 1 2 3) := by decide
theorem test_decode_shift_compare :
    decode 0x50123000#32 = .ok (.lsh 1 2 3) ∧ decode 0x51123000#32 = .ok (.rsh 1 2 3) ∧
    decode 0x52123000#32 = .ok (.srsh 1 2 3) ∧ decode 0x60123000#32 = .ok (.lt 1 2 3) ∧
    decode 0x61123000#32 = .ok (.gt 1 2 3) ∧ decode 0x62123000#32 = .ok (.slt 1 2 3) ∧
    decode 0x63123000#32 = .ok (.sgt 1 2 3) ∧ decode 0x64123000#32 = .ok (.cmp 1 2 3) := by decide
theorem test_decode_sign_exp :
    decode 0x70120000#32 = .ok (.sign 1 2) ∧ decode 0x71120000#32 = .ok (.abs 1 2) ∧
    decode 0x72120000#32 = .ok (.neg 1 2) ∧ decode 0x80123000#32 = .ok (.exp 1 2 3) := by decide
theorem test_decode_bits_conversion :
    decode (0b00000110#8 ++ 0b0000#4 ++ 0b1110#4 ++ 0b0000#4 ++ 0b0000#4 ++ 0b01000000#8) = .ok (.wslice 14 64) := by
  decide
theorem test_decode_bits_addsub :
    decode (0b00010011#8 ++ 0b1001#4 ++ 0b0110#4 ++ 0b1100#4 ++ 0b0000#4 ++ 0b00000000#8) = .ok (.subo 9 6 12) := by
  decide
theorem test_decode_bits_multiply :
    decode (0b00100001#8 ++ 0b1010#4 ++ 0b0101#4 ++ 0b0000#4 ++ 0b0000#4 ++ 0b00000000#8) = .ok (.sqr 10 5) := by
  decide
theorem test_decode_bits_divide :
    decode (0b00110001#8 ++ 0b1111#4 ++ 0b0001#4 ++ 0b1000#4 ++ 0b0000#4 ++ 0b00000000#8) = .ok (.mod 15 1 8) := by
  decide
theorem test_decode_bits_modular :
    decode (0b01000001#8 ++ 0b0001#4 ++ 0b0010#4 ++ 0b0100#4 ++ 0b1000#4 ++ 0b00000000#8) = .ok (.mulmod 1 2 4 8) := by
  decide
theorem test_decode_bits_shift :
    decode (0b01010010#8 ++ 0b0111#4 ++ 0b1011#4 ++ 0b1101#4 ++ 0b0000#4 ++ 0b00000000#8) = .ok (.srsh 7 11 13) := by
  decide
theorem test_decode_bits_compare :
    decode (0b01100011#8 ++ 0b0000#4 ++ 0b1111#4 ++ 0b0001#4 ++ 0b0000#4 ++ 0b00000000#8) = .ok (.sgt 0 15 1) := by
  decide
theorem test_decode_bits_sign :
    decode (0b01110001#8 ++ 0b0011#4 ++ 0b1100#4 ++ 0b0000#4 ++ 0b0000#4 ++ 0b00000000#8) = .ok (.abs 3 12) := by
  decide
theorem test_decode_bits_exp :
    decode (0b10000000#8 ++ 0b1110#4 ++ 0b0111#4 ++ 0b0011#4 ++ 0b0000#4 ++ 0b00000000#8) = .ok (.exp 14 7 3) := by
  decide

/-- D1 to D11: the verdict of each illegal word. -/
theorem test_decode_D1_to_D11 :
    decode 0x00000000#32 = .error .undefOpcode ∧ decode 0xFF000000#32 = .error .undefOpcode ∧
    decode 0x15000000#32 = .error .undefOpcode ∧ decode 0x90000000#32 = .error .undefOpcode ∧
    decode 0x10123001#32 = .error .reservedField ∧ decode 0x10123100#32 = .error .reservedField ∧
    decode 0x01310000#32 = .error .reservedField ∧ decode 0x04150000#32 = .error .reservedField ∧
    decode 0x03110041#32 = .error .reservedField ∧ decode 0x03100041#32 = .error .lengthRange ∧
    decode 0x060500FF#32 = .error .lengthRange := by decide

/-- The assembler: an example of R100, an alias of R101, case, and its two rejections. -/
theorem test_assembler :
    assembleToWord "MULMOD" [.x 1, .x 2, .x 3, .x 4] = some 0x41123400#32 ∧
    assembleToWord "squared" [.x 1, .x 2] = some 0x21120000#32 ∧
    assemble "add" [.x 1, .x 2, .x 16] = none ∧ assemble "SETB" [.x 1, .count 65] = none := by decide

/-- The table's word for EXP reaches the decoder, and runs as the first command after reset (V48.2). -/
theorem test_table_word :
    decodeTableWord 32 0x80123000 = some (.exp 1 2 3) ∧ regOf 1 (run 0x80123000 State.reset) = some 1 := by
  decide +kernel

/-! ### V40 conversion -/

theorem test_V40_1_clr : regOf 1 (run 0x01100000 (cpu 5 0 0 0)) = some 0 := by decide
theorem test_V40_2_mov : regOf 1 (run 0x02120000 (cpu 0 (2 ^ 256 - 1) 0 0)) = some (2 ^ 256 - 1) := by decide
theorem test_V40_4_setb_0 : regOf 1 (run 0x03100000 (cpu 99 0 0 0)) = some 0 := by decide
theorem test_V40_7_setb_33 :
    regOf 1 (run 0x03100021 (withBytes ([0x12#8] ++ List.replicate 31 0#8 ++ [1#8]) (cpu 0 0 0 0))) = some 1 := by
  decide
theorem test_V40_9_b32 :
    bytesOf 34 (run 0x04020000 (allEE (cpu 0 1 0 0))) =
      some (List.replicate 31 (some 0#8) ++ [some 1#8, some 0xEE#8, some 0xEE#8]) := by decide
theorem test_V40_10_b20 :
    bytesOf 22 (run 0x05020000 (allEE (cpu 0 (2 ^ 160 + 171) 0 0))) =
      some (List.replicate 19 (some 0#8) ++ [some 0xAB#8, some 0xEE#8, some 0xEE#8]) := by decide
theorem test_V40_12_wslice_4 :
    bytesOf 6 (run 0x06020004 (allEE (cpu 0 0x102030405 0 0))) =
      some [some 2#8, some 3#8, some 4#8, some 5#8, some 0xEE#8, some 0xEE#8] := by decide
theorem test_V40_13_wslice_40 :
    bytesOf 41 (run 0x06020028 (allEE (cpu 0 1 0 0))) =
      some (List.replicate 8 (some 0xEE#8) ++ List.replicate 31 (some 0#8) ++ [some 1#8, some 0xEE#8]) := by decide
theorem test_V40_14_padb_4 :
    bytesOf 6 (run 0x07020004 (allEE (cpu 0 0x102030405 0 0))) =
      some [some 2#8, some 3#8, some 4#8, some 5#8, some 0xEE#8, some 0xEE#8] := by decide
theorem test_V40_15_padb_40 :
    bytesOf 41 (run 0x07020028 (allEE (cpu 0 1 0 0))) =
      some (List.replicate 39 (some 0#8) ++ [some 1#8, some 0xEE#8]) := by decide
theorem test_V40_17_u64 : regOf 1 (run 0x08120000 (cpu 0 (2 ^ 64 + 7) 0 0)) = some 7 := by decide
theorem test_V40_18_i64 : regOf 1 (run 0x09120000 (cpu 0 (2 ^ 63) 0 0)) = some (2 ^ 256 - 2 ^ 63) := by decide
theorem test_V40_19_i64 : regOf 1 (run 0x09120000 (cpu 0 (2 ^ 64 + 5) 0 0)) = some 5 := by decide
theorem test_V40_21_u64o :
    regAndC 1 (run 0x0A120000 (cpu 0 (2 ^ 64 - 1) 0 0 true)) = some (2 ^ 64 - 1, false) := by decide
theorem test_V40_23_u64o : regAndC 1 (run 0x0A120000 (cpu 0 (2 ^ 255 + 9) 0 0)) = some (9, true) := by decide
theorem test_V40_24_isu64 : regAndC 1 (run 0x0B120000 (cpu 0 (2 ^ 64 - 1) 0 0)) = some (1, true) := by decide
theorem test_V40_25_isu64 : regAndC 1 (run 0x0B120000 (cpu 0 (2 ^ 64) 0 0 true)) = some (0, false) := by decide
theorem test_V40_27_isu128 : regAndC 1 (run 0x0C120000 (cpu 0 (2 ^ 128 - 1) 0 0)) = some (1, true) := by decide
theorem test_V40_28_isu128 : regAndC 1 (run 0x0C120000 (cpu 0 (2 ^ 128) 0 0)) = some (0, false) := by decide

/-! ### V41 add and subtract -/

theorem test_V41_3_add : regAndC 1 (run 0x10123000 (cpu 0 (2 ^ 192 - 1) 1 0)) = some (2 ^ 192, false) := by decide
theorem test_V41_4_add : regAndC 1 (run 0x10111000 (cpu (2 ^ 255) 0 0 0)) = some (0, false) := by decide
theorem test_V41_6_addo : regAndC 1 (run 0x11123000 (cpu 0 1 1 0 true)) = some (2, false) := by decide
theorem test_V41_7_addo :
    regAndC 1 (run 0x11123000 (cpu 0 (2 ^ 256 - 1) (2 ^ 256 - 1) 0)) = some (2 ^ 256 - 2, true) := by decide
theorem test_V41_8_sub : regAndC 1 (run 0x12123000 (cpu 0 0 1 0)) = some (2 ^ 256 - 1, false) := by decide
theorem test_V41_10_sub : regAndC 1 (run 0x12123000 (cpu 0 (2 ^ 128) 1 0)) = some (2 ^ 128 - 1, false) := by decide
theorem test_V41_12_subo : regAndC 1 (run 0x13123000 (cpu 0 5 5 0 true)) = some (0, false) := by decide
theorem test_V41_13_subo : regAndC 1 (run 0x13123000 (cpu 0 0 (2 ^ 256 - 1) 0)) = some (1, true) := by decide
theorem test_V41_14_sub64 :
    regAndC 1 (run 0x14123000 (cpu 0 (2 ^ 64) (2 ^ 128 + 1) 0)) = some (2 ^ 64 - 1, false) := by decide
theorem test_V41_17_sub64 :
    regOf 2 (run 0x14223000 (cpu 0 (2 ^ 256 - 1) (2 ^ 256 - 1) 0)) = some (2 ^ 256 - 2 ^ 64) := by decide

/-! ### V42 multiply, V43 divide -/

theorem test_V42_7_mul : regAndC 1 (run 0x20123000 (cpu 0 (2 ^ 192) (2 ^ 64 + 1) 0)) = some (2 ^ 192, false) := by decide
theorem test_V42_8_mul : regOf 2 (run 0x20222000 (cpu 0 (2 ^ 200 + 1) 0 0)) = some (2 ^ 201 + 1) := by decide
theorem test_V42_11_sqr : regOf 1 (run 0x21120000 (cpu 0 (2 ^ 256 - 1) 0 0)) = some 1 := by decide
theorem test_V42_12_sqr :
    regOf 1 (run 0x21120000 (cpu 0 (2 ^ 127 + 2 ^ 63) 0 0)) =
      some 0x4000000000000000800000000000000040000000000000000000000000000000 := by decide
theorem test_V43_2_div : regOf 1 (run 0x30123000 (cpu 9 (2 ^ 256 - 1) 0 0)) = some 0 := by decide
theorem test_V43_16_div :
    regOf 1 (run 0x30123000 (cpu 0 0x4000000000000000000000000000000000000000000000007FFFFFFFFFFFFFFF (2 ^ 191 + 1) 0)) =
      some (2 ^ 63 - 1) := by decide
theorem test_V43_3_mod : regOf 1 (run 0x31123000 (cpu 9 (2 ^ 256 - 1) 0 0)) = some 0 := by decide
theorem test_V43_19_mod : regOf 3 (run 0x31323000 (cpu 0 100 7 0)) = some 2 := by decide

/-! ### V44 modular and signed division -/

theorem test_V44_4_addmod :
    regOf 1 (run 0x40123400 (cpu 0 (2 ^ 256 - 1) (2 ^ 256 - 1) (2 ^ 256 - 2))) = some 2 := by decide
theorem test_V44_7_addmod : regOf 4 (run 0x40423400 (cpu 0 (2 ^ 256 - 1) 2 10)) = some 7 := by decide
theorem test_V44_14_mulmod :
    regOf 1 (run 0x41123400 (cpu 9 (2 ^ 256 - 1) (2 ^ 256 - 1) 0)) = some 0 := by decide
theorem test_V44_16_mulmod :
    regOf 3 (run 0x41323400 (cpu 0 (2 ^ 200) (2 ^ 100) (2 ^ 256 - 189))) = some 0xBD00000000000 := by decide
theorem test_V44_17_sdiv :
    regOf 1 (run 0x42123000 (cpu 0 (2 ^ 256 - 7) 2 0)) = some (2 ^ 256 - 3) ∧
    regOf 2 (run 0x42123000 (cpu 0 (2 ^ 256 - 7) 2 0)) = some 7 := by decide
theorem test_V44_20_sdiv :
    regOf 1 (run 0x42123000 (cpu 0 (2 ^ 255) (2 ^ 256 - 1) 0)) = some (2 ^ 255) ∧
    regOf 3 (run 0x42123000 (cpu 0 (2 ^ 255) (2 ^ 256 - 1) 0)) = some 1 := by decide
theorem test_V44_28_smod :
    regOf 1 (run 0x43123000 (cpu 0 (2 ^ 256 - 7) (2 ^ 256 - 2) 0)) = some (2 ^ 256 - 1) ∧
    regOf 3 (run 0x43123000 (cpu 0 (2 ^ 256 - 7) (2 ^ 256 - 2) 0)) = some 2 := by decide
theorem test_V44_30_smod :
    regOf 1 (run 0x43123000 (cpu 9 (2 ^ 256 - 5) 0 0)) = some 0 ∧
    regOf 2 (run 0x43123000 (cpu 9 (2 ^ 256 - 5) 0 0)) = some 5 := by decide

/-! ### V45 shift, V46 compare -/

theorem test_V45_4_lsh : regOf 1 (run 0x50123000 (cpu 9 (2 ^ 256 - 1) (2 ^ 64 + 1) 0)) = some 0 := by decide
theorem test_V45_7_lsh : regOf 1 (run 0x50123000 (cpu 0 (2 ^ 63 + 1) 65 0)) = some (2 ^ 128 + 2 ^ 65) := by decide
theorem test_V45_10_rsh : regOf 1 (run 0x51123000 (cpu 0 (2 ^ 256 - 1) 1 0)) = some (2 ^ 255 - 1) := by decide
theorem test_V45_11_rsh : regOf 1 (run 0x51123000 (cpu 9 (2 ^ 256 - 1) (2 ^ 256 - 1) 0)) = some 0 := by decide
theorem test_V45_14_srsh : regOf 1 (run 0x52123000 (cpu 0 (2 ^ 256 - 7) 1 0)) = some (2 ^ 256 - 4) := by decide
theorem test_V45_18_srsh : regOf 1 (run 0x52123000 (cpu 0 (2 ^ 256 - 1) 300 0)) = some (2 ^ 256 - 1) := by decide
theorem test_V46_1_lt : regAndC 1 (run 0x60123000 (cpu 0 1 (2 ^ 256 - 1) 0)) = some (1, true) := by decide
theorem test_V46_3_lt : regAndC 1 (run 0x60122000 (cpu 9 5 0 0 true)) = some (0, false) := by decide
theorem test_V46_4_gt : regAndC 1 (run 0x61123000 (cpu 0 (2 ^ 256 - 1) 1 0)) = some (1, true) := by decide
theorem test_V46_5_gt : regAndC 1 (run 0x61123000 (cpu 9 1 (2 ^ 256 - 1) 0 true)) = some (0, false) := by decide
theorem test_V46_7_slt : regAndC 1 (run 0x62123000 (cpu 0 (2 ^ 255) (2 ^ 255 - 1) 0)) = some (1, true) := by decide
theorem test_V46_9_slt : regAndC 1 (run 0x62123000 (cpu 9 0 (2 ^ 256 - 1) 0 true)) = some (0, false) := by decide
theorem test_V46_10_sgt : regAndC 1 (run 0x63123000 (cpu 0 (2 ^ 255 - 1) (2 ^ 255) 0)) = some (1, true) := by decide
theorem test_V46_12_sgt : regAndC 1 (run 0x63122000 (cpu 9 7 0 0 true)) = some (0, false) := by decide
theorem test_V46_13_cmp : regAndC 1 (run 0x64123000 (cpu 0 3 5 0)) = some (2 ^ 256 - 1, false) := by decide
theorem test_V46_14_cmp : regAndC 1 (run 0x64123000 (cpu 0 5 3 0 true)) = some (1, true) := by decide

/-! ### V47 sign, V48 exponentiation -/

theorem test_V47_3_sign : regOf 1 (run 0x70120000 (cpu 0 (2 ^ 255 - 1) 0 0)) = some 1 := by decide
theorem test_V47_4_sign : regOf 1 (run 0x70120000 (cpu 0 (2 ^ 255) 0 0)) = some (2 ^ 256 - 1) := by decide
theorem test_V47_6_abs : regOf 1 (run 0x71120000 (cpu 0 (2 ^ 256 - 5) 0 0)) = some 5 := by decide
theorem test_V47_8_abs : regOf 1 (run 0x71120000 (cpu 0 (2 ^ 255) 0 0)) = some (2 ^ 255) := by decide
theorem test_V47_10_neg : regOf 1 (run 0x72120000 (cpu 9 0 0 0)) = some 0 := by decide
theorem test_V47_13_neg : regOf 2 (run 0x72220000 (cpu 0 (2 ^ 64) 0 0)) = some (2 ^ 256 - 2 ^ 64) := by decide
theorem test_V48_7_exp : regOf 1 (run 0x80123000 (cpu 0 2 255 0)) = some (2 ^ 255) := by decide +kernel
theorem test_V48_12_exp : regOf 2 (run 0x80223000 (cpu 0 7 2 0)) = some 49 := by decide +kernel

/-! ### STATUS: D and S rows -/

theorem test_status_D1 : statusOf (run 0x00000000 State.reset) = some 0x14#32 := by decide
theorem test_status_D9 : statusOf (run 0x03110041 State.reset) = some 0x24#32 := by decide
theorem test_status_D10 : statusOf (run 0x03100041 State.reset) = some 0x34#32 := by decide

/-- The state S1 and S2 are in after their first action. -/
def afterZeroWord : State := andThen State.reset (run 0x00000000 State.reset)

theorem test_status_S1_ovr_bit : statusOf (step (facing (hws 8) afterZeroWord)) = some 0x14#32 := by decide
theorem test_status_S1_ill_bit : statusOf (step (facing (hws 4) afterZeroWord)) = some 0#32 := by decide
theorem test_status_S2_overwrites_cause : statusOf (run 0x10123001 afterZeroWord) = some 0x24#32 := by decide
theorem test_status_S2_clears_all : statusOf (step (facing (hws 0xFFFFFFFF) afterZeroWord)) = some 0#32 := by decide
theorem test_status_S3_keeps_c : statusOf (run 0x00000000 (cpu 0 0 0 0 true)) = some 0x16#32 := by decide

/-- A state with ADD x1, x2, x3 in progress. -/
def busyAdd : State := { cpu 0 1 2 0 with inFlight := some (.add 1 2 3) }

/-- S4: the second word is dropped, and STATUS reads 0x48 once BUSY = 0. -/
def droppedThenComplete : Result := step (andThen busyAdd (step (facing (byHost true (.write 0 (.b32 0#32))) busyAdd)))

theorem test_status_S4_dropped_word : statusOf droppedThenComplete = some 0x48#32 := by decide
theorem test_status_S4_first_command_completes : regOf 1 droppedThenComplete = some 3 := by decide

/-! ### The window -/

/-- What a step drives on the host bus. -/
def driven : Result → Option BusData
  | .next t => some t.readData
  | .fault _ | .refused _ => none

theorem test_window_dbuf_write_and_read :
    driven (step (facing (hr8 63) (andThen State.reset (step (facing (hw8 63 0xA5) State.reset))))) =
      some (.b8 0xA5#8) := by decide
theorem test_window_cmd_reads_zero :
    driven (step (facing (byHost false (.read 0 .w32)) State.reset)) = some (.b32 0#32) := by decide
theorem test_window_refuses_narrow_status_read :
    step (facing (byHost false (.read 4 .w8)) State.reset) = .refused .registerAccessWidth := rfl
theorem test_window_refuses_wide_dbuf_write :
    step (facing (byHost false (.write 0x40 (.b32 0))) State.reset) = .refused .dbufAccessWidth := rfl
theorem test_run_ends_at_status_read :
    (facing hrs (cpu 7 0 0 0 true)).finalState? =
      some ⟨(cpu 7 0 0 0).regs, true, 2#32, List.replicate 64 none⟩ := by decide
theorem test_run_does_not_end :
    State.reset.atFinalRead = false ∧ (facing (hcmd 0x01100000) State.reset).atFinalRead = false ∧
    (facing (hrs (early := true)) busyAdd).atFinalRead = false ∧
    { facing hrs State.reset with resetHeld := true }.atFinalRead = false := by decide
theorem test_reset_abandons_command :
    (andThen busyAdd (step (facing ⟨.assertReset, .theHost, true⟩ busyAdd))).inFlight = none := by decide

/-- The step or command answers a next state. -/
def completes : Result → Bool
  | .next _ => true
  | .fault _ | .refused _ => false

/-! ### Witnesses: the hypotheses of the obligations are met -/

/-- The core idle after reset, with one action pending. -/
def idle (a : HostAction) : State := facing a State.reset

/-- A command in progress, with one action pending that lands while it is. -/
def busy (e : HostEvent) : State := facing (byHost true e) busyAdd

theorem idle_accepts (w : CmdWord) : Accepts w [] (idle (hcmd w)) := ⟨⟨false, ⟨rfl, .inl rfl⟩, rfl⟩, rfl⟩
theorem idle_hostLands (e : HostEvent) : HostLands e false [] (idle (byHost false e)) := ⟨⟨rfl, .inl rfl⟩, rfl⟩
theorem busy_hostLands (e : HostEvent) : HostLands e true [] (busy e) := ⟨⟨rfl, .inr rfl⟩, rfl⟩

theorem witness_DecodeOfEncodeGivesBack :
    Instr.wf (.padb 15 64) = true ∧ Instr.wf (.setb 0 0) = true ∧ Instr.wf (.mulmod 15 0 7 8) = true := by decide

theorem witness_EncodeOfDecodeGivesBack :
    decode 0x07050000#32 = .ok (.padb 5 0) ∧ decode 0x80FFF000#32 = .ok (.exp 15 15 15) := by decide

theorem witness_UnlistedOpcodesAreIllegal :
    Accepts 0#32 [] (idle (hcmd 0#32)) ∧
    ∀ op ∈ [0x00, 0x0D, 0x0F, 0x15, 0x1F, 0x22, 0x2F, 0x32, 0x3F, 0x44, 0x4F, 0x53, 0x5F, 0x65, 0x6F, 0x73, 0x7F, 0x81,
      0xFF], UnlistedOpcode ((BitVec.ofNat 32 (op * 2 ^ 24)).toNat / 2 ^ 24) :=
  ⟨idle_accepts _, by unfold UnlistedOpcode; decide⟩

theorem witness_NonZeroReservedFieldsAreIllegal :
    Accepts 0x10123001#32 [] (idle (hcmd 0x10123001#32)) ∧
    ∀ p ∈ [(Instr.clr 0, 0x01310000#32), (.mov 0 0, 0x02001000#32), (.add 0 0 0, 0x10123001#32),
      (.mulmod 0 0 0 0, 0x410000FF#32), (.setb 0 0, 0x03110041#32), (.b32 0, 0x04150000#32), (.padb 0 0, 0x07F00000#32)],
      p.2.toNat / 2 ^ 24 = (opcodeByte p.1).toNat ∧ ReservedNonZero (classOf p.1) p.2 :=
  ⟨idle_accepts _, by simp [ReservedNonZero, opcodeByte, classOf]⟩

theorem witness_LengthsAbove64AreIllegal :
    Accepts 0x03100041#32 [] (idle (hcmd 0x03100041#32)) ∧ 64 < 65 ∧ 65 < 256 ∧
    (0x03100041#32).toNat = 0x03 * 2 ^ 24 + (1 : Reg).val * 2 ^ 20 + 65 ∧
    (0x06F500FF#32 &&& 0xFF0FFFFF#32).toNat = 0x06 * 2 ^ 24 + (5 : Reg).val * 2 ^ 16 + 255 ∧
    (0x070F0040#32).toNat = 0x07 * 2 ^ 24 + (15 : Reg).val * 2 ^ 16 + 64 :=
  ⟨idle_accepts _, by decide⟩

theorem witness_ResetGivesResetValuesAndAbandonsCommand :
    Lands ⟨.assertReset, .theHost, true⟩ [] (busy .assertReset) ∧ (busy .assertReset).inFlight = some (.add 1 2 3) ∧
    Lands ⟨.releaseReset, .theHost, false⟩ [] { idle (byHost false .releaseReset) with resetHeld := true } :=
  ⟨⟨rfl, .inr rfl⟩, rfl, ⟨rfl, .inl rfl⟩⟩

theorem witness_ForbiddenAndForeignAccesses :
    Lands ⟨.read 0x7F .w8, .theHost, false⟩ [] { idle (byHost false (.read 0x7F .w8)) with resetHeld := true } ∧
    Lands ⟨.write 0x00 (.b32 0), .another, false⟩ [] (idle ⟨.write 0x00 (.b32 0), .another, false⟩) ∧
    Lands ⟨.write 0x80 (.b16 0), .another, true⟩ [] (facing ⟨.write 0x80 (.b16 0), .another, true⟩ busyAdd) :=
  ⟨⟨rfl, .inl rfl⟩, ⟨rfl, .inl rfl⟩, ⟨rfl, .inr rfl⟩⟩

theorem witness_StepRunsTheDecodedCommand :
    Accepts 0x10123000#32 [] (idle (hcmd 0x10123000#32)) ∧ decode 0x10123000#32 = .ok (.add 1 2 3) :=
  ⟨idle_accepts _, by decide⟩

/-- An idle core facing ADD x1, x2, x3 and a STATUS read that lands while it is in progress. -/
def addThenPoll : State := { State.reset with host := [hcmd 0x10123000, byHost true (.read 4 .w32)] }

theorem witness_AcceptanceThenCompletion :
    Accepts 0x10123000#32 [byHost true (.read 4 .w32)] addThenPoll ∧ decode 0x10123000#32 = .ok (.add 1 2 3) ∧
    (byHost true (.read 4 .w32)).whileBusy = true ∧ busyAdd.inFlight = some (.add 1 2 3) ∧ busyAdd.host.head? = none :=
  ⟨⟨⟨false, ⟨rfl, .inl rfl⟩, rfl⟩, rfl⟩, by decide, rfl, rfl, rfl⟩

theorem witness_IllegalCommandOnlySetsIllAndCause :
    Accepts 0x060500FF#32 [] (idle (hcmd 0x060500FF#32)) ∧ decode 0x060500FF#32 = .error .lengthRange :=
  ⟨idle_accepts _, by decide⟩

theorem witness_WritesWhileBusyAreDropped :
    (busy (.write 0x00 (.b32 0))).inFlight = some (.add 1 2 3) ∧
    HostLands (.write 0x00 (.b32 0)) true [] (busy (.write 0x00 (.b32 0))) ∧
    HostLands (.write (0x40 + 0) (.b8 1)) true [] (busy (.write (0x40 + 0) (.b8 1))) ∧
    HostLands (.write (0x40 + 63) (.b8 1)) true [] (busy (.write (0x40 + 63) (.b8 1))) :=
  ⟨rfl, busy_hostLands _, busy_hostLands _, busy_hostLands _⟩

theorem witness_StatusWriteAcknowledgesErrors :
    HostLands (.write 0x04 (.b32 4)) false [] (facing (hws 4) afterZeroWord) ∧ afterZeroWord.ill = true ∧
    HostLands (.write 0x04 (.b32 8)) true [] (busy (.write 0x04 (.b32 8))) :=
  ⟨⟨⟨rfl, .inl (by decide)⟩, by decide⟩, by decide, busy_hostLands _⟩

theorem witness_StatusReadGivesItsFields :
    HostLands (.read 0x04 .w32) false [] (idle hrs) ∧ HostLands (.read 0x04 .w32) true [] (busy (.read 0x04 .w32)) :=
  ⟨idle_hostLands _, busy_hostLands _⟩

theorem witness_ReservedOffsetsReadZeroIgnoreWrites :
    HostLands (.write 0x08 (.b16 1)) false [] (idle (byHost false (.write 0x08 (.b16 1)))) ∧
    HostLands (.write 0x3F (.b8 1)) true [] (busy (.write 0x3F (.b8 1))) ∧
    HostLands (.read 0x08 .w32) true [] (busy (.read 0x08 .w32)) ∧
    HostLands (.read 0x3F .w8) false [] (idle (byHost false (.read 0x3F .w8))) ∧
    HostLands (.read 0x00 .w32) false [] (idle (byHost false (.read 0x00 .w32))) :=
  ⟨idle_hostLands _, busy_hostLands _, busy_hostLands _, idle_hostLands _, idle_hostLands _⟩

theorem witness_DbufWindowAccess :
    HostLands (.write (0x40 + 0) (.b8 7)) false [] (idle (byHost false (.write (0x40 + 0) (.b8 7)))) ∧
    HostLands (.read (0x40 + 63) .w8) false [] (idle (byHost false (.read (0x40 + 63) .w8))) ∧
    (busy (.read (0x40 + 0) .w8)).inFlight.isSome = true ∧
    HostLands (.read (0x40 + 0) .w8) true [] (busy (.read (0x40 + 0) .w8)) ∧
    HostLands (.read (0x40 + 63) .w8) true [] (busy (.read (0x40 + 63) .w8)) ∧
    HostLands (.write (0x40 + 63) (.b8 7)) true [] (busy (.write (0x40 + 63) (.b8 7))) ∧
    HostLands (.write (0x40 + 63) (.b16 7)) true [] (busy (.write (0x40 + 63) (.b16 7))) ∧
    HostLands (.read (0x40 + 0) .w32) true [] (busy (.read (0x40 + 0) .w32)) :=
  ⟨idle_hostLands _, idle_hostLands _, rfl, busy_hostLands _, busy_hostLands _, busy_hostLands _, busy_hostLands _,
    busy_hostLands _⟩

theorem witness_RegisterAccessesAreAlignedWords :
    HostLands (.write 0x00 (.b32 7)) false [] (idle (byHost false (.write 0x00 (.b32 7)))) ∧
    HostLands (.write 0x07 (.b8 7)) false [] (idle (byHost false (.write 0x07 (.b8 7)))) ∧
    HostLands (.read 0x04 .w32) true [] (busy (.read 0x04 .w32)) ∧
    HostLands (.read 0x01 .w32) true [] (busy (.read 0x01 .w32)) :=
  ⟨idle_hostLands _, idle_hostLands _, busy_hostLands _, busy_hostLands _⟩

theorem witness_AccessesWhileBusyKeepTheSnapshot :
    (busy (.write 0x7F (.b8 0))).inFlight = some (.add 1 2 3) ∧ (busy (.write 0x7F (.b8 0))).resetHeld = false ∧
    (byHost true (.write 0x7F (.b8 0))).isAccess = true ∧ (byHost true (.write 0x7F (.b8 0))).permitted = true ∧
    (byHost true (.write 0x00 (.b32 0))).permitted = true ∧ (byHost true (.read 0x04 .w32)).permitted = true := by
  decide

theorem witness_OverlappedCommandRefinesAtomicCommand :
    Accepts 0x10123000#32 ([byHost true (.read 4 .w32)] ++ []) addThenPoll ∧ decode 0x10123000#32 = .ok (.add 1 2 3) ∧
    (byHost true (.read 4 .w32)).isAccess = true ∧ (byHost true (.read 4 .w32)).permitted = true :=
  ⟨⟨⟨false, ⟨rfl, .inl rfl⟩, rfl⟩, rfl⟩, by decide⟩

theorem reset_inv : State.reset.Inv :=
  ⟨by decide, by simp [State.reset], by simp [State.reset], by simp [State.reset], by simp [State.reset]⟩

theorem witness_CommandInProgressCompletes :
    (busy (.write 0x00 (.b32 0))).Inv ∧ (∀ a ∈ (busy (.write 0x00 (.b32 0))).host, a.permitted = true) ∧
    (busy (.write 0x00 (.b32 0))).inFlight = some (.add 1 2 3) ∧
    (busy (.write 0x00 (.b32 0))).host = [byHost true (.write 0x00 (.b32 0))] ++ [] ∧
    (byHost true (.write 0x00 (.b32 0))).isAccess = true :=
  ⟨⟨by decide, by simp [busy, facing, busyAdd, Instr.wf], by simp [busy, facing, busyAdd, cpu, State.reset],
    by simp [busy, facing, busyAdd, cpu, State.reset], by simp [busy, facing, busyAdd, cpu, State.reset]⟩, by decide, rfl,
    rfl, rfl⟩

theorem witness_StepKeepsTheMachineInvariant :
    State.reset.Inv ∧ (idle hrs).Inv ∧ completes (step (idle hrs)) = true :=
  ⟨reset_inv,
    ⟨by decide, by simp [idle, facing, State.reset], by simp [idle, facing, State.reset],
      by simp [idle, facing, State.reset], by simp [idle, facing, State.reset]⟩, by decide⟩

/-- Used by the frames, which assume only that a command completes: one command of each operand form does. -/
theorem witness_commands_complete :
    ∀ i ∈ [Instr.clr 1, .mov 1 2, .setb 1 64, .b32 1, .wslice 1 64, .padb 1 0, .u64o 1 2, .add 1 2 3, .mulmod 1 2 3 4,
      .smod 1 2 3], completes (exec i busyAdd) = true := by decide

theorem witness_DecodedCommandsAlwaysComplete :
    decode 0x03100040#32 = .ok (.setb 1 64) ∧ Instr.wf (.padb 1 65) = false := by decide

theorem witness_OnlyListedCommandsWriteC :
    writesC (.mul 1 2 3) = false ∧
    regAndC 1 (step (facing (hcmd 0x60123000) (cpu 0 1 2 0))) = some (1, true) ∧
    regAndC 1 (step { cpu 0 1 2 0 with inFlight := some (.lt 1 2 3) }) = some (1, true) ∧
    regAndC 1 (step (facing (byHost false .assertReset) (cpu 0 1 2 0 true))) = some (0, false) := by decide

theorem witness_CommandsReadOnlyRegistersAndDbuf :
    SameSources (cpu 1 2 3 4 false) (cpu 1 2 3 4 true) ∧ cpu 1 2 3 4 false ≠ cpu 1 2 3 4 true ∧
    completes (exec (.lt 1 2 3) (cpu 1 2 3 4 false)) = true :=
  ⟨⟨fun _ => rfl, fun _ => rfl⟩, by decide, by decide⟩

theorem witness_StickyBitsStayUntilAcknowledged :
    afterZeroWord.ill = true ∧ (andThen State.reset (step (facing (hws 4) afterZeroWord))).ill = false ∧
    (andThen busyAdd (step (busy (.write 0x40 (.b8 1))))).ovr = true := by decide

theorem witness_HostThatWaitsNeverOverruns :
    (∀ a ∈ (busy (.read 0x04 .w32)).host, a.waitsOutBusy = true) ∧ completes (step (busy (.read 0x04 .w32))) = true ∧
    (byHost true (.write 0x00 (.b32 0))).waitsOutBusy = false ∧ (hw8 63 0).waitsOutBusy = true := by decide

/-- The byte counts of SETB, WSLICE and PADB at the boundaries of each clause; their commands are all well-formed. -/
theorem witness_byte_counts :
    (0 ≤ 64 ∧ 64 ≤ 64) ∧ (32 ≤ 32 ∧ 32 ≤ 64) ∧ 31 < 32 ∧ (64 < 65 ∧ 65 < 256) ∧ (64 < 255 ∧ 255 < 256) ∧ 0 + 32 < 33 ∧
    (32 < 33 ∧ 33 ≤ 64) ∧ 33 ≤ 1 + 32 := by decide

theorem witness_AddThenSubGivesBack : (1 : Reg) ≠ 3 := by decide

theorem witness_SignUnitLaws : (1 : Reg) ≠ 2 ∧
    regOf 1 (exec (.sign 1 2) (cpu 0 0 0 0)) = some 0 ∧ regOf 1 (exec (.sign 1 2) (cpu 0 9 0 0)) = some 1 ∧
    regOf 1 (exec (.sign 1 2) (cpu 0 (2 ^ 255) 0 0)) = some (2 ^ 256 - 1) := by decide

theorem witness_DivisionIdentities : (cpu 0 5 7 0).reg 3 ≠ 0#256 ∧ (cpu 0 5 0 0).reg 3 = 0#256 := by decide

theorem witness_ShiftInverse :
    (1 : Reg) ≠ 3 ∧ ((cpu 0 5 255 0).reg 3).toNat < 256 ∧ 256 ≤ ((cpu 0 5 256 0).reg 3).toNat ∧
    (cpu 0 5 0 0).reg 3 = 0#256 := by decide

end Sys2Proof.Tests
end

section
/-! Reasoning rules about one step: the landing of an access of the one host, what an action that answers a next state
has done, and what a step has done. -/

namespace Sys2Proof.Machine

/-! ### The landing of an access of the one host -/

theorem step_of_hostLands_write {offset : Nat} {d : BusData} {early : Bool} {rest : List HostAction} {s : State}
    (h : HostLands (.write offset d) early rest s) (ho : offset < Config.windowBytes) :
    step s = hostWrite offset d (s.withHost rest) := by
  obtain ⟨hl, hr⟩ := h
  rw [step_of_lands hl]
  exact guardAccess_theHost _ ho hr

theorem step_of_hostLands_read {offset : Nat} {w : Width} {early : Bool} {rest : List HostAction} {s : State}
    (h : HostLands (.read offset w) early rest s) (ho : offset < Config.windowBytes) :
    step s = hostRead offset w (s.withHost rest) := by
  obtain ⟨hl, hr⟩ := h
  rw [step_of_lands hl]
  exact guardAccess_theHost _ ho hr

/-- An accepted word meets an idle core, so the step is `acceptWord` (10_state.md R45). -/
theorem step_of_accepts {w : CmdWord} {rest : List HostAction} {s : State} (h : Accepts w rest s) :
    step s = acceptWord w (s.withHost rest) := by
  obtain ⟨⟨_, hl⟩, hi⟩ := h
  rw [step_of_hostLands_write hl (by decide)]
  simp [hostWrite, writeCmd, State.busy, hi]

/-! ### What an action that answers a next state has done -/

/-- The effects an action of the environment can have on the state `s` it lands in, each with what it takes. -/
inductive ActionEffect (a : HostAction) (s : State) : State → Prop
  /-- Not seen by the core, ignored at a reserved offset, or no edge of the reset input. -/
  | nothing : ActionEffect a s s
  /-- A change of the reset input. -/
  | reset (held : Bool) (ha : a.isAccess = false) : ActionEffect a s (s.resetTo held)
  /-- A read whose data the state fixes. -/
  | read (d : BusData) : ActionEffect a s (s.drive d)
  /-- A read that takes a free draw. -/
  | readDraw (d : BusData) : ActionEffect a s (s.drive d).nextDraw
  /-- The acknowledgement of errors. -/
  | ack (v : BitVec 32) (he : a.event = .write statusOffset (.b32 v)) : ActionEffect a s (s.ackStatus v)
  /-- A write to CMD or DBUF dropped while a command is in progress. -/
  | drop (k : Cause) (offset : Nat) (d : BusData) (hk : k ≠ .noError) (he : a.event = .write offset d)
    (ho : offset = cmdOffset ∨ dbufOffset ≤ offset) (hb : s.busy = true) : ActionEffect a s (s.dropWrite k)
  /-- An illegal command word. -/
  | illegal (w : CmdWord) (e : DecodeError) (he : a.event = .write cmdOffset (.b32 w)) (hd : decode w = .error e)
    (hb : s.busy = false) : ActionEffect a s (s.raiseIllegal e)
  /-- A legal command word, accepted only. -/
  | accept (w : CmdWord) (i : Instr) (he : a.event = .write cmdOffset (.b32 w)) (hd : decode w = .ok i)
    (hb : s.busy = false) (hr : s.resetHeld = false) (hn : s.overlapNext = true) : ActionEffect a s (s.accept i)
  /-- A legal command word, run to completion. -/
  | run (w : CmdWord) (i : Instr) (t : State) (he : a.event = .write cmdOffset (.b32 w)) (hd : decode w = .ok i)
    (hb : s.busy = false) (hn : s.overlapNext = false) (hx : exec i s = .next t) : ActionEffect a s t
  /-- A stored DBUF byte. -/
  | store (k : Nat) (b : Byte) (he : a.event = .write (dbufOffset + k) (.b8 b)) (hk : k < Config.dbufBytes)
    (hb : s.busy = false) : ActionEffect a s (s.setDbufByte k b)

theorem writeCmd_effect {a : HostAction} {w : CmdWord} {s t : State} (he : a.event = .write cmdOffset (.b32 w))
    (hr : s.resetHeld = false) (h : writeCmd w s = .next t) : ActionEffect a s t := by
  obtain ⟨hb, rfl⟩ | ⟨hb, e, hd, rfl⟩ | ⟨hb, i, hd, hn, rfl⟩ | ⟨hb, i, hd, hn, hx⟩ := writeCmd_next h
  · exact .drop _ _ _ (by decide) he (.inl rfl) hb
  · exact .illegal w e he hd hb
  · exact .accept w i he hd hb hr hn
  · exact .run w i t he hd hb hn hx

theorem writeDbuf_effect {a : HostAction} {k : Nat} {b : Byte} {s t : State}
    (he : a.event = .write (dbufOffset + k) (.b8 b)) (hk : k < Config.dbufBytes) (h : writeDbuf k b s = .next t) :
    ActionEffect a s t := by
  obtain ⟨hb, rfl⟩ | ⟨hb, rfl⟩ := writeDbuf_next h
  · exact .drop _ _ _ (by decide) he (.inr (Nat.le_add_right ..)) hb
  · exact .store k b he hk hb

theorem hostWrite_effect {a : HostAction} {offset : Nat} {d : BusData} {s t : State}
    (he : a.event = .write offset d) (ho : offset < Config.windowBytes) (hr : s.resetHeld = false)
    (h : hostWrite offset d s = .next t) : ActionEffect a s t := by
  obtain ⟨rfl, w, rfl, hw⟩ | ⟨rfl, v, rfl, rfl⟩ | ⟨_, _, rfl⟩ | ⟨k, b, hk, rfl, rfl, hw⟩ := hostWrite_next ho h
  · exact writeCmd_effect he hr hw
  · exact .ack v he
  · exact .nothing
  · exact writeDbuf_effect he hk hw

theorem performAction_effect {a : HostAction} {s t : State} (h : performAction a s = .next t) :
    ActionEffect a s t := by
  unfold performAction at h
  split at h
  case h_1 offset d he =>
    obtain ⟨_, rfl⟩ | ⟨ho, hr, _, hw⟩ := guardAccess_next h
    · exact .nothing
    · exact hostWrite_effect he ho hr hw
  case h_2 offset w he =>
    obtain ⟨_, rfl⟩ | ⟨_, _, _, hw⟩ := guardAccess_next h
    · exact .nothing
    · obtain ⟨d, rfl | rfl⟩ := hostRead_next hw
      · exact .read d
      · exact .readDraw d
  case h_3 he =>
    cases h
    exact .reset true (by simp [HostAction.isAccess, he])
  case h_4 he =>
    cases h
    split
    · exact .reset false (by simp [HostAction.isAccess, he])
    · exact .nothing

/-- What a step that answers a next state has done: the effect of the action that landed, the completion of the
command in progress, or nothing on an idle core. -/
theorem step_next_cases {s t : State} (h : step s = .next t) :
    (∃ a rest, Lands a rest s ∧ ActionEffect a (s.withHost rest) t) ∨
    (∃ i, s.inFlight = some i ∧ exec i s.release = .next t) ∨ t = s := by
  obtain ⟨a, rest, hl, hs⟩ | ⟨i, hi, hs⟩ | ⟨_, _, hs⟩ := step_cases s <;> rw [hs] at h
  · exact .inl ⟨a, rest, hl, performAction_effect h⟩
  · exact .inr (.inl ⟨i, hi, h⟩)
  · cases h
    exact .inr (.inr rfl)

end Sys2Proof.Machine
end

section
/-! What the decoder gives is well-formed, what an acknowledgement leaves of STATUS, and the machine invariant
`State.Inv`, kept by every effect a step can have. -/

namespace Sys2Proof

/-- A row of the command map builds a well-formed command from a word whose byte count, where the row uses it, is in
range (30_encoding.md R97). -/
theorem wf_build_of_mem_opTable (w : CmdWord) : ∀ row ∈ opTable,
    (row.cls.usesLength = true → imm8Of w ≤ Config.dbufBytes) → (row.build w).wf = true := by
  simp [opTable, conversionRows, arithmeticRows, modularShiftRows, compareSignExpRows, unRow, binRow, terRow,
    OpClass.usesLength, Instr.wf, lengthOk]

theorem wf_of_decode {w : CmdWord} {i : Instr} (h : decode w = .ok i) : i.wf = true := by
  obtain ⟨row, hrow, _, hl, rfl⟩ := decode_ok_cases h
  exact wf_build_of_mem_opTable w row (opRow?_some hrow).1 hl

end Sys2Proof

namespace Sys2Proof.Machine

/-! ### The acknowledgement of errors (10_state.md R42, R43) -/

theorem getLsbD_eq_true_iff {n : Nat} (v : BitVec n) (k : Nat) : v.getLsbD k = true ↔ v.toNat / 2 ^ k % 2 = 1 := by
  rw [BitVec.getLsbD, Nat.testBit_eq_decide_div_mod_eq, decide_eq_true_iff]

theorem getLsbD_eq_false_iff {n : Nat} (v : BitVec n) (k : Nat) : v.getLsbD k = false ↔ v.toNat / 2 ^ k % 2 = 0 := by
  rw [← Bool.not_eq_true, getLsbD_eq_true_iff, Nat.mod_two_not_eq_one]

/-- ILL survives an acknowledgement that does not write 1 to bit 2 (10_state.md R42). -/
theorem State.ackStatus_ill_iff (s : State) (v : BitVec 32) :
    (s.ackStatus v).ill = true ↔ s.ill = true ∧ v.toNat / 4 % 2 = 0 := by
  rw [State.ackStatus_ill, Bool.and_eq_true, Bool.not_eq_true']
  exact and_congr_right' (getLsbD_eq_false_iff v 2)

/-- OVR survives an acknowledgement that does not write 1 to bit 3 (10_state.md R42). -/
theorem State.ackStatus_ovr_iff (s : State) (v : BitVec 32) :
    (s.ackStatus v).ovr = true ↔ s.ovr = true ∧ v.toNat / 8 % 2 = 0 := by
  rw [State.ackStatus_ovr, Bool.and_eq_true, Bool.not_eq_true']
  exact and_congr_right' (getLsbD_eq_false_iff v 3)

/-- CAUSE after an acknowledgement, by what the sticky bits end as (10_state.md R43). -/
theorem State.ackStatus_cause_eq (s : State) (v : BitVec 32) :
    (s.ackStatus v).cause = if (s.ackStatus v).ill = true ∨ (s.ackStatus v).ovr = true then s.cause else .noError := by
  simp only [← Bool.or_eq_true]
  rfl

/-- An acknowledgement sets no sticky bit. -/
theorem State.sticky_of_ackStatus {s : State} {v : BitVec 32}
    (h : (s.ackStatus v).ill = true ∨ (s.ackStatus v).ovr = true) : s.ill = true ∨ s.ovr = true :=
  h.imp (fun hi => ((s.ackStatus_ill_iff v).mp hi).1) (fun ho => ((s.ackStatus_ovr_iff v).mp ho).1)

/-! ### The invariant -/

/-- The invariant speaks of DBUF, STATUS, the reset input and the record of faults only. -/
theorem State.Inv.congr {s t : State} (h : s.Inv) (hd : t.dbuf = s.dbuf) (hi : t.inFlight = s.inFlight)
    (hk : t.cause = s.cause) (hl : t.ill = s.ill) (ho : t.ovr = s.ovr) (hf : t.runFault = s.runFault)
    (hr : t.resetHeld = s.resetHeld) : t.Inv := by
  obtain ⟨h1, h2, h3, h4, h5⟩ := h
  exact ⟨by rwa [hd], by rwa [hi], by rwa [hk, hl, ho], by rwa [hl, ho, hf], by rwa [hr, hi]⟩

theorem State.Inv.withHost {s : State} (h : s.Inv) (l : List HostAction) : (s.withHost l).Inv :=
  h.congr rfl rfl rfl rfl rfl rfl rfl

theorem State.Inv.drive {s : State} (h : s.Inv) (d : BusData) : (s.drive d).Inv :=
  h.congr rfl rfl rfl rfl rfl rfl rfl

theorem State.Inv.nextDraw {s : State} (h : s.Inv) : s.nextDraw.Inv :=
  h.congr rfl rfl rfl rfl rfl rfl rfl

theorem State.Inv.release {s : State} (h : s.Inv) : s.release.Inv :=
  ⟨h.dbuf_wf, by simp, h.cause_none, h.sticky_recorded, by simp⟩

theorem State.Inv.accept {s : State} (h : s.Inv) {i : Instr} (hi : i.wf = true) (hr : s.resetHeld = false) :
    (s.accept i).Inv :=
  ⟨h.dbuf_wf, by simp [hi], h.cause_none, h.sticky_recorded, by simp [hr]⟩

theorem State.Inv.resetTo {s : State} (held : Bool) : (s.resetTo held).Inv :=
  ⟨rfl, by simp, by simp, by simp, by simp⟩

theorem State.Inv.setDbufByte {s : State} (h : s.Inv) {k : Nat} (hk : k < Config.dbufBytes) (b : Byte) :
    (s.setDbufByte k b).Inv :=
  ⟨Memory.wf_put s.dbuf k b hk h.dbuf_wf, h.inFlight_wf, h.cause_none, h.sticky_recorded, h.reset_idle⟩

theorem State.Inv.dropWrite {s : State} (h : s.Inv) {k : Cause} (hk : k ≠ .noError) : (s.dropWrite k).Inv :=
  ⟨h.dbuf_wf, h.inFlight_wf, by simp [hk], by simp, h.reset_idle⟩

theorem causeOf_ne_noError (e : DecodeError) : causeOf e ≠ .noError := by
  cases e <;> decide

theorem State.Inv.raiseIllegal {s : State} (h : s.Inv) (e : DecodeError) : (s.raiseIllegal e).Inv :=
  ⟨h.dbuf_wf, h.inFlight_wf, by simp [causeOf_ne_noError], by simp, h.reset_idle⟩

theorem State.Inv.cause_ne_noError {s : State} (h : s.Inv) (hs : s.ill = true ∨ s.ovr = true) :
    s.cause ≠ .noError := by
  intro hc
  obtain ⟨hi, ho⟩ := h.cause_none.mp hc
  simp [hi, ho] at hs

/-- The acknowledgement clears CAUSE exactly when it leaves both sticky bits 0 (10_state.md R43), and sets neither. -/
theorem State.Inv.ackStatus {s : State} (h : s.Inv) (v : BitVec 32) : (s.ackStatus v).Inv := by
  refine ⟨h.dbuf_wf, h.inFlight_wf, ?_, fun hs => h.sticky_recorded (State.sticky_of_ackStatus hs), h.reset_idle⟩
  rw [State.ackStatus_cause_eq]
  split
  next hs =>
    refine iff_of_false (h.cause_ne_noError (State.sticky_of_ackStatus hs)) ?_
    rintro ⟨hi, ho⟩
    simp only [hi, ho, Bool.false_eq_true, or_self] at hs
  next hs => exact iff_of_true rfl (by simpa only [not_or, Bool.not_eq_true] using hs)

theorem State.Inv.of_exec {s t : State} (h : s.Inv) {i : Instr} (hx : exec i s = .next t) : t.Inv := by
  obtain ⟨regs, c, rfl⟩ | ⟨addr, n, v, hb, rfl⟩ := exec_next_cases hx
  · exact h.congr rfl rfl rfl rfl rfl rfl rfl
  · rw [State.memWrite_eq]
    exact ⟨s.memWrite_wf addr n v hb h.dbuf_wf, h.inFlight_wf, h.cause_none, h.sticky_recorded, h.reset_idle⟩

theorem ActionEffect.inv {a : HostAction} {s t : State} (he : ActionEffect a s t) (h : s.Inv) : t.Inv := by
  cases he with
  | nothing => exact h
  | reset held => exact .resetTo held
  | read d => exact h.drive d
  | readDraw d => exact (h.drive d).nextDraw
  | ack v => exact h.ackStatus v
  | drop k _ _ hk => exact h.dropWrite hk
  | illegal _ e => exact h.raiseIllegal e
  | accept w i _ hd _ hr => exact h.accept (wf_of_decode hd) hr
  | run w i t _ _ _ _ hx => exact h.of_exec hx
  | store k b _ hk => exact h.setDbufByte hk b

/-- Settles O23: every effect a step can have keeps the invariant. -/
theorem stepKeepsTheMachineInvariant : Obligations.StepKeepsTheMachineInvariant := by
  intro s t h hs
  obtain ⟨a, rest, _, he⟩ | ⟨i, _, hx⟩ | rfl := step_next_cases hs
  · exact he.inv (h.withHost rest)
  · exact h.release.of_exec hx
  · exact h

end Sys2Proof.Machine
end

section
/-! STATUS and the acceptance of a command: the write that acknowledges errors, the read that gives the fields, reset,
and the two forms in which a legal command runs. -/

namespace Sys2Proof.Machine

/-! ### STATUS (10_state.md R39 to R44) -/

/-- Settles O15: the step is `State.ackStatus` on the state with the action taken. -/
theorem statusWriteAcknowledgesErrors : Obligations.StatusWriteAcknowledgesErrors := by
  intro v early rest s h
  have hstep : step s = .next ((s.withHost rest).ackStatus v) := step_of_hostLands_write h (by decide)
  have hcause := (s.withHost rest).ackStatus_cause_eq v
  refine ⟨_, hstep, State.ackStatus_ill_iff .., State.ackStatus_ovr_iff .., ?_, ?_,
    ⟨fun _ => rfl, rfl, fun _ => rfl⟩, rfl, rfl, rfl, rfl⟩
  · rintro ⟨hi, ho⟩
    rw [hcause, hi, ho]
    rfl
  · intro hs
    rw [hcause, if_pos hs, State.withHost_cause]

/-- The value of STATUS by its fields (10_state.md R39). -/
theorem State.toNat_statusWith (s : State) (cBit : Bool) :
    (s.statusWith cBit).toNat =
      s.busy.toNat + 2 * cBit.toNat + 4 * s.ill.toNat + 8 * s.ovr.toNat + 16 * s.cause.code.toNat := by
  simp only [State.statusWith, toNat_append_eq, BitVec.toNat_ofBool, BitVec.toNat_ofNat]
  ring

/-- Settles O16: the step drives `State.statusWord`, bit 1 of which is C or a free draw. -/
theorem statusReadGivesItsFields : Obligations.StatusReadGivesItsFields := by
  intro early rest s h
  have hstep : step s = readStatus (s.withHost rest) := step_of_hostLands_read h (by decide)
  have hval := (s.withHost rest).toNat_statusWith (if s.busy then Config.busyC s.draws else s.c)
  have hc : s.busy = false → (if s.busy then Config.busyC s.draws else s.c) = s.c := fun hb => by simp [hb]
  rw [hstep]
  unfold readStatus
  dsimp only
  split <;>
    exact ⟨_, _, _, rfl, rfl, hc, hval, ⟨fun _ => rfl, rfl, fun _ => rfl⟩, ⟨rfl, rfl, rfl, rfl⟩, rfl, rfl⟩

/-! ### Reset, acceptance and completion -/

/-- Settles O8: every value stands in `State.reset`. -/
theorem resetStateHoldsResetValues : Obligations.ResetStateHoldsResetValues :=
  ⟨fun r => by simp [State.reg], rfl, rfl, fun _ => rfl⟩

theorem overlapNext_eq_false {s : State} (h : ∀ a ∈ s.host.head?, a.whileBusy = false) : s.overlapNext = false := by
  unfold State.overlapNext
  split
  next => rfl
  next a rest hh => exact h a (by simp [hh])

theorem acceptWord_of_no_overlap {w : CmdWord} {i : Instr} {s : State} (hd : decode w = .ok i)
    (ho : s.overlapNext = false) : acceptWord w s = exec i s := by
  simp [acceptWord, hd, ho]

theorem acceptWord_of_overlap {w : CmdWord} {i : Instr} {s : State} (hd : decode w = .ok i)
    (ho : s.overlapNext = true) : acceptWord w s = .next (s.accept i) := by
  simp [acceptWord, hd, ho]

/-- Settles O11: an accepted legal word is run at once where nothing lands while it is in progress. -/
theorem stepRunsTheDecodedCommand : Obligations.StepRunsTheDecodedCommand := by
  intro w i rest s ha hd hr
  rw [step_of_accepts ha]
  exact acceptWord_of_no_overlap hd (overlapNext_eq_false hr)

/-- Settles O12: acceptance alone where an action lands while the command is in progress, and its completion. -/
theorem acceptanceThenCompletion : Obligations.AcceptanceThenCompletion := by
  constructor
  · intro w i a rest s ha hd hw
    rw [step_of_accepts ha]
    exact acceptWord_of_overlap hd hw
  · intro i s hi hh
    exact step_completes hi hh

end Sys2Proof.Machine
end

section
/-! What a host can change: nothing that the command in progress reads (10_state.md R48), and a sticky bit only by an
acknowledgement (10_state.md R42). -/

namespace Sys2Proof.Machine

/-! ### Accesses while a command is in progress -/

theorem guardAccess_answers {offset : Nat} {ag : Agent} {s : State} {access : Result} (hr : s.resetHeld = false)
    (h : Config.windowBytes ≤ offset ∨ ag = .theHost ∧ ∃ t, access = .next t) :
    ∃ t, guardAccess offset ag s access = .next t := by
  unfold guardAccess
  split
  · exact ⟨s, rfl⟩
  · obtain ho | ⟨rfl, ha⟩ := h
    · contradiction
    · simpa [hr] using ha

/-- Where in the window an access of width `w` has a meaning (20_memory.md R65, R66): a word at CMD or STATUS, any width
at a reserved offset, a byte in DBUF. -/
def PermittedInWindow (offset : Nat) (w : Width) : Prop :=
  (w = .w32 ∧ (offset = cmdOffset ∨ offset = statusOffset)) ∨ (reservedOffset ≤ offset ∧ offset < dbufOffset) ∨
  (w = .w8 ∧ dbufOffset ≤ offset)

theorem permittedInWindow_of_check {offset : Nat} {w : Width}
    (h : (if offset < reservedOffset then
        decide (w = .w32) && (decide (offset = cmdOffset) || decide (offset = statusOffset))
      else decide (offset < dbufOffset) || decide (w = .w8)) = true) : PermittedInWindow offset w := by
  split at h <;> simp only [Bool.and_eq_true, Bool.or_eq_true, decide_eq_true_eq] at h
  next => exact .inl h
  next ho =>
    by_cases hlt : offset < dbufOffset
    · exact .inr (.inl ⟨Nat.le_of_not_lt ho, hlt⟩)
    · exact .inr (.inr ⟨h.resolve_left hlt, Nat.le_of_not_lt hlt⟩)

theorem permitted_write {offset : Nat} {d : BusData} {ag : Agent} {early : Bool}
    (h : HostAction.permitted ⟨.write offset d, ag, early⟩ = true) :
    Config.windowBytes ≤ offset ∨ ag = .theHost ∧ PermittedInWindow offset d.width := by
  simp only [HostAction.permitted, Bool.or_eq_true, Bool.and_eq_true (decide (ag = _)), decide_eq_true_eq] at h
  exact h.imp_right (And.imp_right permittedInWindow_of_check)

theorem permitted_read {offset : Nat} {w : Width} {ag : Agent} {early : Bool}
    (h : HostAction.permitted ⟨.read offset w, ag, early⟩ = true) :
    Config.windowBytes ≤ offset ∨ ag = .theHost ∧ PermittedInWindow offset w := by
  simp only [HostAction.permitted, Bool.or_eq_true, Bool.and_eq_true (decide (ag = _)), decide_eq_true_eq] at h
  exact h.imp_right (And.imp_right permittedInWindow_of_check)

/-- While a command is in progress no write needs more than its region's width: CMD and DBUF writes are dropped. -/
theorem hostWrite_answers_of_busy {offset : Nat} {d : BusData} {s : State} (hb : s.busy = true)
    (h : PermittedInWindow offset d.width) : ∃ t, hostWrite offset d s = .next t := by
  obtain ⟨hw, rfl | rfl⟩ | ⟨h8, h64⟩ | ⟨hw, h64⟩ := h
  · cases d <;> simp_all [BusData.width, hostWrite, writeCmd]
  · cases d <;> simp_all [BusData.width, hostWrite]
  · simp [hostWrite, Nat.not_lt.mpr h8, h64]
  · have h8 : reservedOffset ≤ offset := le_trans (by decide) h64
    cases d <;> simp_all [BusData.width, hostWrite, writeDbuf, Nat.not_lt.mpr]

theorem hostRead_answers {offset : Nat} {w : Width} (s : State) (h : PermittedInWindow offset w) :
    ∃ t, hostRead offset w s = .next t := by
  obtain ⟨rfl, rfl | rfl⟩ | ⟨h8, h64⟩ | ⟨rfl, h64⟩ := h
  · exact ⟨_, rfl⟩
  · exact ⟨_, rfl⟩
  · simp [hostRead, Nat.not_lt.mpr h8, h64]
  · have h8 : reservedOffset ≤ offset := le_trans (by decide) h64
    by_cases hb : s.busy = true <;> simp [hostRead, readDbuf, Nat.not_lt.mpr h8, Nat.not_lt.mpr h64, hb]

/-- A permitted access out of reset is answered while a command is in progress (60_exceptions.md R271). -/
theorem performAction_answers_of_busy {a : HostAction} {s : State} (hb : s.busy = true) (hr : s.resetHeld = false)
    (hp : a.permitted = true) : ∃ t, performAction a s = .next t := by
  obtain ⟨e, ag, early⟩ := a
  cases e with
  | write offset d =>
    exact guardAccess_answers hr ((permitted_write hp).imp_right (And.imp_right (hostWrite_answers_of_busy hb)))
  | read offset w => exact guardAccess_answers hr ((permitted_read hp).imp_right (And.imp_right (hostRead_answers s)))
  | assertReset | releaseReset => exact ⟨_, rfl⟩

/-- Settles O20: of the effects an access can have, those that change what a command reads need BUSY = 0. -/
theorem accessesWhileBusyKeepTheSnapshot : Obligations.AccessesWhileBusyKeepTheSnapshot := by
  intro i a rest s hi hr hh hw hacc hp
  have hb : (s.withHost rest).busy = true := by simp [State.busy, hi]
  obtain ⟨t, ht⟩ := performAction_answers_of_busy (s := s.withHost rest) hb hr hp
  refine ⟨t, (step_of_lands ⟨hh, .inr hw⟩).trans ht, ?_⟩
  cases performAction_effect ht with
  | nothing | read | readDraw | ack | drop => exact ⟨hi, ⟨fun _ => rfl, rfl, fun _ => rfl⟩, rfl, hr, rfl⟩
  | reset _ hn => simp [hacc] at hn
  | illegal _ _ _ _ hn | accept _ _ _ _ hn | run _ _ _ _ _ hn | store _ _ _ _ hn => simp [hb] at hn

/-! ### How a sticky bit can be lost -/

/-- A command that completes leaves STATUS but for bit 1, and the environment, as they were
(60_exceptions.md R250, R256). -/
theorem exec_keepsStatus_keepsEnvironment {i : Instr} {s t : State} (h : exec i s = .next t) :
    KeepsStatus s t ∧ KeepsEnvironment s t := by
  obtain ⟨regs, c, rfl⟩ | ⟨addr, n, v, _, rfl⟩ := exec_next_cases h
  · exact ⟨⟨rfl, rfl, rfl, rfl⟩, rfl, rfl, rfl, rfl, rfl, rfl⟩
  · obtain ⟨_, _, _, hst, henv⟩ := writesDbuf_memWrite s addr n v
    exact ⟨hst, henv⟩

/-- A sticky bit that is 1 stays 1 over every effect but a change of the reset input and an acknowledgement. -/
theorem ActionEffect.sticky_cases {a : HostAction} {s t : State} (h : ActionEffect a s t) :
    t.resets = s.resets + 1 ∨ (∃ v, a.event = .write statusOffset (.b32 v) ∧ t = s.ackStatus v) ∨
    ((s.ill = true → t.ill = true) ∧ (s.ovr = true → t.ovr = true)) := by
  cases h with
  | reset => exact .inl rfl
  | ack v he => exact .inr (.inl ⟨v, he, rfl⟩)
  | run w i _ _ _ _ _ hx =>
    obtain ⟨⟨_, hill, hovr, _⟩, _⟩ := exec_keepsStatus_keepsEnvironment hx
    exact .inr (.inr ⟨hill.trans, hovr.trans⟩)
  | nothing | read | readDraw | accept | store => exact .inr (.inr ⟨id, id⟩)
  | drop => exact .inr (.inr ⟨id, fun _ => rfl⟩)
  | illegal => exact .inr (.inr ⟨fun _ => rfl, id⟩)

theorem step_sticky_cases {s t : State} (h : step s = .next t) :
    t.resets = s.resets + 1 ∨
    (∃ a v rest, s.host = a :: rest ∧ a.event = .write statusOffset (.b32 v) ∧
      (t.ill = true ↔ s.ill = true ∧ v.toNat / 4 % 2 = 0) ∧ (t.ovr = true ↔ s.ovr = true ∧ v.toNat / 8 % 2 = 0)) ∨
    ((s.ill = true → t.ill = true) ∧ (s.ovr = true → t.ovr = true)) := by
  obtain ⟨a, rest, ⟨hh, _⟩, he⟩ | ⟨i, _, hx⟩ | rfl := step_next_cases h
  · obtain hr | ⟨v, hv, rfl⟩ | hk := he.sticky_cases
    · exact .inl hr
    · exact .inr (.inl ⟨a, v, rest, hh, hv, State.ackStatus_ill_iff .., State.ackStatus_ovr_iff ..⟩)
    · exact .inr (.inr hk)
  · obtain ⟨⟨_, hill, hovr, _⟩, _⟩ := exec_keepsStatus_keepsEnvironment hx
    exact .inr (.inr ⟨hill.trans, hovr.trans⟩)
  · exact .inr (.inr ⟨id, id⟩)

/-- Settles O31: of the steps, only a write to STATUS and a change of the reset input clear a sticky bit. -/
theorem stickyBitsStayUntilAcknowledged : Obligations.StickyBitsStayUntilAcknowledged := by
  intro s t h
  obtain hr | ⟨a, v, rest, hh, hv, hi, ho⟩ | ⟨hi, ho⟩ := step_sticky_cases h
  · exact ⟨fun _ _ => .inl hr, fun _ _ => .inl hr⟩
  · refine ⟨fun hs ht => .inr ⟨a, v, rest, hh, hv, ?_⟩, fun hs ht => .inr ⟨a, v, rest, hh, hv, ?_⟩⟩
    · simpa [hs, ht] using hi
    · simpa [hs, ht] using ho
  · exact ⟨fun hs ht => by simp [hi hs] at ht, fun hs ht => by simp [ho hs] at ht⟩

end Sys2Proof.Machine
end

section
/-! The forms a command's effect can take, and from them what a command reads and writes (10_state.md R32, R36, R37). -/

namespace Sys2Proof.Machine

/-- The forms of a command: what it computes from the registers and writes, with the registers and the flag it is listed
to write. -/
inductive CommandForm (i : Instr) : Prop
  /-- `x[rd] <- f(registers)`. -/
  | value (rd : Reg) (f : (Reg → U256) → U256) (hx : ∀ s, exec i s = .next (s.setReg rd (f s.reg)))
    (hr : writtenRegs i = [rd]) (hc : writesC i = false)
  /-- `x[rd] <- f(registers); C <- p(registers)`. -/
  | valueAndC (rd : Reg) (f : (Reg → U256) → U256) (p : (Reg → U256) → Bool)
    (hx : ∀ s, exec i s = .next ((s.setReg rd (f s.reg)).setC (p s.reg)))
    (hr : writtenRegs i = [rd]) (hc : writesC i = true)
  /-- SETB: a register from DBUF. -/
  | load (rd : Reg) (n : Nat) (hx : ∀ s, exec i s = importForm rd n s)
    (hr : writtenRegs i = [rd]) (hc : writesC i = false)
  /-- B32, B20, WSLICE, PADB: DBUF from a register. -/
  | store (rs1 : Reg) (addr k : Nat) (hx : ∀ s, exec i s = exportForm rs1 addr k s)
    (hr : writtenRegs i = []) (hc : writesC i = false)
  /-- SDIV and SMOD, which write their sources back. -/
  | signedDiv (f : U256 → U256 → U256) (rd rs1 rs2 : Reg) (hx : ∀ s, exec i s = signedDivForm f rd rs1 rs2 s)
    (hr : writtenRegs i = [rd, rs1, rs2]) (hc : writesC i = false)

namespace CommandForm
variable {i : Instr}

theorem of_unary {f : U256 → U256} {rd rs1 : Reg} (hx : exec i = unaryForm f rd rs1) (hr : writtenRegs i = [rd])
    (hc : writesC i = false) : CommandForm i :=
  .value rd (fun x => f (x rs1)) (fun s => congrFun hx s) hr hc

theorem of_unaryFlag {f : U256 → U256} {p : U256 → Bool} {rd rs1 : Reg} (hx : exec i = unaryFlagForm f p rd rs1)
    (hr : writtenRegs i = [rd]) (hc : writesC i = true) : CommandForm i :=
  .valueAndC rd (fun x => f (x rs1)) (fun x => p (x rs1)) (fun s => congrFun hx s) hr hc

theorem of_unaryPredicate {p : U256 → Bool} {rd rs1 : Reg} (hx : exec i = unaryPredicate p rd rs1)
    (hr : writtenRegs i = [rd]) (hc : writesC i = true) : CommandForm i :=
  of_unaryFlag (f := fun a => b2v (p a)) hx hr hc

theorem of_binary {f : U256 → U256 → U256} {rd rs1 rs2 : Reg} (hx : exec i = binaryForm f rd rs1 rs2)
    (hr : writtenRegs i = [rd]) (hc : writesC i = false) : CommandForm i :=
  .value rd (fun x => f (x rs1) (x rs2)) (fun s => congrFun hx s) hr hc

theorem of_binaryFlag {f : U256 → U256 → U256} {p : U256 → U256 → Bool} {rd rs1 rs2 : Reg}
    (hx : exec i = binaryFlagForm f p rd rs1 rs2) (hr : writtenRegs i = [rd]) (hc : writesC i = true) :
    CommandForm i :=
  .valueAndC rd (fun x => f (x rs1) (x rs2)) (fun x => p (x rs1) (x rs2)) (fun s => congrFun hx s) hr hc

theorem of_binaryPredicate {p : U256 → U256 → Bool} {rd rs1 rs2 : Reg} (hx : exec i = binaryPredicate p rd rs1 rs2)
    (hr : writtenRegs i = [rd]) (hc : writesC i = true) : CommandForm i :=
  of_binaryFlag (f := fun a b => b2v (p a b)) hx hr hc

theorem of_ternary {f : U256 → U256 → U256 → U256} {rd rs1 rs2 rs3 : Reg}
    (hx : exec i = ternaryForm f rd rs1 rs2 rs3) (hr : writtenRegs i = [rd]) (hc : writesC i = false) :
    CommandForm i :=
  .value rd (fun x => f (x rs1) (x rs2) (x rs3)) (fun s => congrFun hx s) hr hc

end CommandForm

theorem execWslice_eq_exportForm (rs1 : Reg) (n : Nat) (s : State) :
    execWslice rs1 n s = exportForm rs1 (n - 32) (min n 32) s := by
  unfold execWslice
  split
  next h => rw [Nat.min_eq_right h]
  next h =>
    have h' : n ≤ 32 := Nat.le_of_not_le h
    rw [Nat.min_eq_left h', Nat.sub_eq_zero_of_le h']

/-- Every command has one of the forms. -/
theorem commandForm (i : Instr) : CommandForm i := by
  cases i with
  | clr rd => exact .value rd (fun _ => 0#256) (fun _ => rfl) rfl rfl
  | mov => exact .of_unary (f := fun a => a) rfl rfl rfl
  | sqr => exact .of_unary (f := fun a => mulWrap a a) rfl rfl rfl
  | u64 | i64 | sign | abs | neg => exact .of_unary rfl rfl rfl
  | u64o => exact .of_unaryFlag rfl rfl rfl
  | isu64 | isu128 => exact .of_unaryPredicate rfl rfl rfl
  | add | sub | sub64 | mul | div | mod | lsh | rsh | srsh | cmp | exp => exact .of_binary rfl rfl rfl
  | addo | subo => exact .of_binaryFlag rfl rfl rfl
  | lt | gt | slt | sgt => exact .of_binaryPredicate rfl rfl rfl
  | addmod | mulmod => exact .of_ternary rfl rfl rfl
  | sdiv | smod => exact .signedDiv _ _ _ _ (fun _ => rfl) rfl rfl
  | setb => exact .load _ _ (fun _ => rfl) rfl rfl
  | b32 rs1 => exact .store rs1 0 32 (fun _ => rfl) rfl rfl
  | b20 rs1 => exact .store rs1 0 20 (fun _ => rfl) rfl rfl
  | padb rs1 n => exact .store rs1 0 n (fun _ => rfl) rfl rfl
  | wslice => exact .store _ _ _ (execWslice_eq_exportForm _ _) rfl rfl

theorem importForm_next {rd : Reg} {n : Nat} {s t : State} (h : importForm rd n s = .next t) :
    n ≤ Config.dbufBytes ∧ t = s.setReg rd (wrap (s.memRead 0 n)) := by
  unfold importForm at h
  split at h <;> cases h
  exact ⟨‹_›, rfl⟩

theorem exportForm_next {rs1 : Reg} {addr k : Nat} {s t : State} (h : exportForm rs1 addr k s = .next t) :
    addr + k ≤ Config.dbufBytes ∧ t = s.memWrite addr k ((s.reg rs1).toNat % 2 ^ (8 * k)) := by
  unfold exportForm at h
  split at h <;> cases h
  exact ⟨‹_›, rfl⟩

/-! ### What a command writes -/

theorem reg_writeBack_of_ne {rs1 rs2 r : Reg} (h1 : r ≠ rs1) (h2 : r ≠ rs2) (a b : U256) (s : State) :
    (writeBack rs1 rs2 a b s).reg r = s.reg r := by
  simp [reg_writeBack, h1, h2]

theorem keepsRegsBut_setReg (s : State) (rd : Reg) (v : U256) : KeepsRegsBut [rd] s (s.setReg rd v) :=
  fun _ hr => s.reg_setReg_of_ne v (List.ne_of_not_mem_cons hr)

/-- Settles O25: by the form of the command. -/
theorem commandsWriteOnlyTheirRegisters : Obligations.CommandsWriteOnlyTheirRegisters := by
  intro i s t h
  cases commandForm i with
  | value rd f hx hr _ =>
    cases (hx s).symm.trans h
    rw [hr]
    exact keepsRegsBut_setReg s rd _
  | valueAndC rd f p hx hr _ =>
    cases (hx s).symm.trans h
    rw [hr]
    exact keepsRegsBut_setReg s rd _
  | load rd n hx hr _ =>
    obtain ⟨_, rfl⟩ := importForm_next ((hx s).symm.trans h)
    rw [hr]
    exact keepsRegsBut_setReg s rd _
  | store rs1 addr k hx _ _ =>
    obtain ⟨_, rfl⟩ := exportForm_next ((hx s).symm.trans h)
    exact fun r _ => State.reg_memWrite ..
  | signedDiv f rd rs1 rs2 hx hr _ =>
    cases (hx s).symm.trans h
    intro r hn
    simp only [hr, List.mem_cons, List.not_mem_nil, or_false, not_or] at hn
    obtain ⟨hd, h1, h2⟩ := hn
    rw [State.reg_setReg_of_ne _ _ hd, reg_writeBack_of_ne h1 h2]

/-- A command that is not listed to write C leaves it (10_state.md R37). -/
theorem exec_c_of_not_writesC {i : Instr} {s t : State} (hw : writesC i = false) (h : exec i s = .next t) :
    t.c = s.c := by
  cases commandForm i with
  | value rd f hx _ _ =>
    cases (hx s).symm.trans h
    rfl
  | valueAndC rd f p _ _ hc => simp [hw] at hc
  | load rd n hx _ _ =>
    obtain ⟨_, rfl⟩ := importForm_next ((hx s).symm.trans h)
    rfl
  | store rs1 addr k hx _ _ =>
    obtain ⟨_, rfl⟩ := exportForm_next ((hx s).symm.trans h)
    exact State.memWrite_c ..
  | signedDiv f rd rs1 rs2 hx _ _ =>
    cases (hx s).symm.trans h
    rw [State.setReg_c, writeBack_eq]

theorem writesC_of_exec_c_ne {i : Instr} {s t : State} (h : exec i s = .next t) (hc : t.c ≠ s.c) :
    writesC i = true := by
  by_contra hw
  exact hc (exec_c_of_not_writesC (by simpa using hw) h)

/-- An effect that changes C is a change of the reset input or the run of a command that writes C. -/
theorem ActionEffect.c_cases {a : HostAction} {s t : State} (h : ActionEffect a s t) (hc : t.c ≠ s.c) :
    t.resets = s.resets + 1 ∨
    ∃ w i, a.event = .write cmdOffset (.b32 w) ∧ decode w = .ok i ∧ writesC i = true := by
  cases h with
  | reset => exact .inl rfl
  | run w i _ he hd _ _ hx => exact .inr ⟨w, i, he, hd, writesC_of_exec_c_ne hx hc⟩
  | nothing | read | readDraw | ack | drop | illegal | accept | store => exact absurd rfl hc

/-- Settles O27: only the run of a command that writes C and a change of the reset input change C. -/
theorem onlyListedCommandsWriteC : Obligations.OnlyListedCommandsWriteC := by
  refine ⟨fun i s t => exec_c_of_not_writesC, fun s t h hc => ?_⟩
  obtain ⟨a, rest, ⟨hh, _⟩, he⟩ | ⟨i, hi, hx⟩ | rfl := step_next_cases h
  · obtain hr | ⟨w, i, hev, hd, hw⟩ := he.c_cases hc
    · exact .inl hr
    · exact .inr ⟨i, hw, .inr ⟨w, a, rest, hh, hev, hd⟩⟩
  · exact .inr ⟨i, writesC_of_exec_c_ne hx hc, .inl hi⟩
  · exact absurd rfl hc

/-! ### What a command reads -/

namespace SameSources
variable {s t : State}

theorem reg_eq (h : SameSources s t) : s.reg = t.reg := funext h.1

theorem setReg (h : SameSources s t) (rd : Reg) (v : U256) : SameSources (s.setReg rd v) (t.setReg rd v) :=
  ⟨fun r => by simp [State.reg_setReg, h.1 r], h.2⟩

theorem writeBack (h : SameSources s t) (rs1 rs2 : Reg) (a b : U256) :
    SameSources (writeBack rs1 rs2 a b s) (writeBack rs1 rs2 a b t) := by
  refine ⟨fun r => by simp [reg_writeBack, h.1 r], ?_⟩
  rw [writeBack_eq, writeBack_eq (s := t)]
  exact h.2

theorem memWrite (h : SameSources s t) (addr n v : Nat) : SameSources (s.memWrite addr n v) (t.memWrite addr n v) := by
  refine ⟨fun r => by simp [h.1 r], fun a => ?_⟩
  by_cases ha : a < addr ∨ addr + n ≤ a
  · rw [State.dbufByte_memWrite_outside _ _ _ _ _ ha, State.dbufByte_memWrite_outside _ _ _ _ _ ha, h.2]
  · obtain ⟨k, rfl⟩ := Nat.exists_eq_add_of_le (Nat.le_of_not_lt (not_or.mp ha).1)
    have hk : k < n := by omega
    rw [State.dbufByte_memWrite_inside _ _ _ _ _ hk, State.dbufByte_memWrite_inside _ _ _ _ _ hk]

end SameSources

/-- Settles O30: each form takes its values from the registers and DBUF bytes, on which the two states agree. -/
theorem commandsReadOnlyRegistersAndDbuf : Obligations.CommandsReadOnlyRegistersAndDbuf := by
  intro i s t s' h hs
  cases commandForm i with
  | value rd f hx _ hc =>
    cases (hx s).symm.trans hs
    refine ⟨_, hx t, ?_, by simp [hc]⟩
    rw [h.reg_eq]
    exact h.setReg rd _
  | valueAndC rd f p hx _ _ =>
    cases (hx s).symm.trans hs
    refine ⟨_, hx t, ?_, fun _ => congrArg p h.reg_eq⟩
    rw [h.reg_eq]
    exact h.setReg rd _
  | load rd n hx _ hc =>
    obtain ⟨hn, rfl⟩ := importForm_next ((hx s).symm.trans hs)
    refine ⟨_, (hx t).trans (if_pos hn), ?_, by simp [hc]⟩
    rw [State.memRead_congr h.2]
    exact h.setReg rd _
  | store rs1 addr k hx _ hc =>
    obtain ⟨hn, rfl⟩ := exportForm_next ((hx s).symm.trans hs)
    refine ⟨_, (hx t).trans (if_pos hn), ?_, by simp [hc]⟩
    rw [h.reg_eq]
    exact h.memWrite addr k _
  | signedDiv f rd rs1 rs2 hx _ hc =>
    cases (hx s).symm.trans hs
    refine ⟨_, hx t, ?_, by simp [hc]⟩
    rw [h.reg_eq]
    exact (h.writeBack rs1 rs2 _ _).setReg rd _

end Sys2Proof.Machine
end

section
/-! A command overlapped by accesses of the host (20_memory.md R72, R76): what it computes from and into is what those
accesses leave alone, so it completes as it would have run at once. -/

namespace Sys2Proof.Machine

/-! ### Every command the decoder gives completes -/

theorem importForm_answers {n : Nat} (hn : n ≤ Config.dbufBytes) (rd : Reg) (s : State) :
    ∃ t, importForm rd n s = .next t :=
  ⟨_, if_pos hn⟩

theorem exportForm_answers {addr k : Nat} (h : addr + k ≤ Config.dbufBytes) (rs1 : Reg) (s : State) :
    ∃ t, exportForm rs1 addr k s = .next t :=
  ⟨_, if_pos h⟩

/-- A command whose byte count, where it has one, is in 0..64 names bytes inside DBUF only. -/
theorem exec_answers_of_wf {i : Instr} (h : i.wf = true) (s : State) : ∃ t, exec i s = .next t := by
  cases i with
  | setb rd n => exact importForm_answers (of_decide_eq_true h) rd s
  | b32 rs1 => exact exportForm_answers (addr := 0) (k := 32) (by decide) rs1 s
  | b20 rs1 => exact exportForm_answers (addr := 0) (k := 20) (by decide) rs1 s
  | padb rs1 n =>
    have hn : n ≤ Config.dbufBytes := of_decide_eq_true h
    exact exportForm_answers (addr := 0) (by omega) rs1 s
  | wslice rs1 n =>
    have hn : n ≤ Config.dbufBytes := of_decide_eq_true h
    obtain ⟨t, ht⟩ := exportForm_answers (addr := n - 32) (k := min n 32) (by omega) rs1 s
    exact ⟨t, (execWslice_eq_exportForm rs1 n s).trans ht⟩
  | _ => exact ⟨_, rfl⟩

/-! ### What a command computes from and into -/

/-- The two states hold the same registers, C and DBUF; the reset number stands for the bytes not yet written
(10_state.md R47). STATUS, the command in progress and the environment may differ. -/
structure SameCore (s t : State) : Prop where
  regs : s.regs = t.regs
  c : s.c = t.c
  dbuf : s.dbuf = t.dbuf
  resets : s.resets = t.resets

namespace SameCore
variable {s t u : State}

theorem symm (h : SameCore s t) : SameCore t s := ⟨h.regs.symm, h.c.symm, h.dbuf.symm, h.resets.symm⟩

theorem trans (h : SameCore s t) (h' : SameCore t u) : SameCore s u :=
  ⟨h.regs.trans h'.regs, h.c.trans h'.c, h.dbuf.trans h'.dbuf, h.resets.trans h'.resets⟩

theorem reg_eq (h : SameCore s t) : s.reg = t.reg := funext (State.reg_congr h.regs)

theorem dbufByte_eq (h : SameCore s t) (a : Nat) : s.dbufByte a = t.dbufByte a :=
  State.dbufByte_congr h.dbuf h.resets a

theorem setReg (h : SameCore s t) (rd : Reg) (v : U256) : SameCore (s.setReg rd v) (t.setReg rd v) :=
  ⟨by simp [h.regs], h.c, h.dbuf, h.resets⟩

theorem setC (h : SameCore s t) (b : Bool) : SameCore (s.setC b) (t.setC b) := ⟨h.regs, rfl, h.dbuf, h.resets⟩

theorem setDbufByte (h : SameCore s t) (a : Nat) (b : Byte) : SameCore (s.setDbufByte a b) (t.setDbufByte a b) :=
  ⟨h.regs, h.c, by simp [h.dbuf], h.resets⟩

theorem memWrite (h : SameCore s t) (addr n v : Nat) : SameCore (s.memWrite addr n v) (t.memWrite addr n v) := by
  induction n generalizing v with
  | zero => exact h
  | succ n ih => exact (ih (v / 256)).setDbufByte _ _

theorem writeBack (h : SameCore s t) (rs1 rs2 : Reg) (a b : U256) :
    SameCore (writeBack rs1 rs2 a b s) (writeBack rs1 rs2 a b t) := by
  unfold Machine.writeBack
  split <;> split
  · exact (h.setReg _ _).setReg _ _
  · exact h.setReg _ _
  · exact h.setReg _ _
  · exact h

/-- A command does the same to two states that hold the same registers, C and DBUF. -/
theorem exec_next {i : Instr} (h : SameCore s t) (hs : exec i s = .next u) :
    ∃ u', exec i t = .next u' ∧ SameCore u u' := by
  cases commandForm i with
  | value rd f hx _ _ =>
    cases (hx s).symm.trans hs
    refine ⟨_, hx t, ?_⟩
    rw [h.reg_eq]
    exact h.setReg rd _
  | valueAndC rd f p hx _ _ =>
    cases (hx s).symm.trans hs
    refine ⟨_, hx t, ?_⟩
    rw [h.reg_eq]
    exact (h.setReg rd _).setC _
  | load rd n hx _ _ =>
    obtain ⟨hn, rfl⟩ := importForm_next ((hx s).symm.trans hs)
    refine ⟨_, (hx t).trans (if_pos hn), ?_⟩
    rw [State.memRead_congr h.dbufByte_eq]
    exact h.setReg rd _
  | store rs1 addr k hx _ _ =>
    obtain ⟨hn, rfl⟩ := exportForm_next ((hx s).symm.trans hs)
    refine ⟨_, (hx t).trans (if_pos hn), ?_⟩
    rw [h.reg_eq]
    exact h.memWrite addr k _
  | signedDiv f rd rs1 rs2 hx _ _ =>
    cases (hx s).symm.trans hs
    refine ⟨_, hx t, ?_⟩
    rw [h.reg_eq]
    exact (h.writeBack rs1 rs2 _ _).setReg rd _

end SameCore

/-! ### Accesses that land while a command is in progress, and its completion -/

/-- The action is one the overlapped command meets: a permitted access that lands while it is in progress. -/
def HostAction.Overlaps (a : HostAction) : Prop := a.whileBusy = true ∧ a.isAccess = true ∧ a.permitted = true

/-- Of the effects an access can have, those that write a DBUF byte need BUSY = 0 (20_memory.md R69). -/
theorem ActionEffect.dbuf_eq_of_busy {a : HostAction} {s t : State} (h : ActionEffect a s t)
    (ha : a.isAccess = true) (hb : s.busy = true) : t.dbuf = s.dbuf := by
  cases h with
  | nothing | read | readDraw | ack | drop => rfl
  | reset _ hn => simp [ha] at hn
  | illegal _ _ _ _ hn | accept _ _ _ _ hn | run _ _ _ _ _ hn | store _ _ _ _ hn => simp [hb] at hn

/-- An overlapping access leaves the command in progress, and all it computes from, as they are. -/
theorem step_overlap {i : Instr} {a : HostAction} {rest : List HostAction} {s : State} (hi : s.inFlight = some i)
    (hr : s.resetHeld = false) (hh : s.host = a :: rest) (ha : a.Overlaps) :
    ∃ t, step s = .next t ∧ t.inFlight = some i ∧ t.resetHeld = false ∧ t.host = rest ∧ SameCore s t := by
  obtain ⟨hw, hacc, hp⟩ := ha
  obtain ⟨t, ht, hi', ⟨hreg, hc, _⟩, hh', hr', hres⟩ := accessesWhileBusyKeepTheSnapshot i a rest s hi hr hh hw hacc hp
  have he : ActionEffect a (s.withHost rest) t := performAction_effect ((step_of_lands ⟨hh, .inr hw⟩).symm.trans ht)
  have hd : t.dbuf = s.dbuf := he.dbuf_eq_of_busy hacc (by simp [State.busy, hi])
  exact ⟨t, ht, hi', hr', hh', (State.regs_ext hreg).symm, hc.symm, hd.symm, hres.symm⟩

/-- A command in progress that `early` overlaps completes one step after them, with what `exec` gives from the state in
which it was accepted. -/
theorem run_overlapped {i : Instr} {early rest : List HostAction} {s u : State} (hi : s.inFlight = some i)
    (hr : s.resetHeld = false) (hh : s.host = early ++ rest) (he : ∀ a ∈ early, a.Overlaps)
    (hrest : ∀ a ∈ rest.head?, a.whileBusy = false) (hx : exec i s = .next u) :
    ∃ t, Sys2Proof.core.run (early.length + 1) s = .next t ∧ t.inFlight = none ∧ t.host = rest ∧ SameCore t u := by
  induction early generalizing s u with
  | nil =>
    have hrel : SameCore s s.release := ⟨rfl, rfl, rfl, rfl⟩
    obtain ⟨t, ht, hut⟩ := hrel.exec_next hx
    obtain ⟨⟨hidle, _⟩, _, hhost, _⟩ := exec_keepsStatus_keepsEnvironment ht
    have hstep : step s = .next t := (step_completes hi (by rwa [hh])).trans ht
    exact ⟨t, core_run_succ hstep, hidle, hhost.trans hh, hut.symm⟩
  | cons a early ih =>
    obtain ⟨ha, he'⟩ := List.forall_mem_cons.mp he
    obtain ⟨s', hstep, hi', hr', hh', hss'⟩ := step_overlap hi hr hh ha
    obtain ⟨u', hx', huu'⟩ := hss'.exec_next hx
    obtain ⟨t, hrun, hidle, hhost, htu'⟩ := ih hi' hr' hh' he' hx'
    exact ⟨t, (core_run_succ hstep).trans hrun, hidle, hhost, htu'.trans huu'.symm⟩

/-- Settles O21: with nothing early the acceptance runs the command at once; otherwise it is accepted only, the early
accesses land, and it completes. -/
theorem overlappedCommandRefinesAtomicCommand : Obligations.OverlappedCommandRefinesAtomicCommand := by
  intro w i early rest s hacc hd he hrest
  obtain ⟨u, hu⟩ := exec_answers_of_wf (wf_of_decode hd) { s with host := rest }
  cases early with
  | nil =>
    have hstep : step s = .next u := (stepRunsTheDecodedCommand w i rest s hacc hd hrest).trans hu
    obtain ⟨⟨hidle, _⟩, _, hhost, _⟩ := exec_keepsStatus_keepsEnvironment hu
    obtain ⟨_, hi⟩ := hacc
    exact ⟨1, u, u, core_run_succ hstep, hu, hidle.trans hi, hhost, fun _ => rfl, rfl, rfl⟩
  | cons a early =>
    obtain ⟨haccept, _⟩ := acceptanceThenCompletion
    have hstep := haccept w i a (early ++ rest) s hacc hd (he a List.mem_cons_self).1
    obtain ⟨⟨_, _, hr⟩, _⟩ := hacc
    have hs : SameCore { s with host := rest } { s with host := a :: (early ++ rest), inFlight := some i } :=
      ⟨rfl, rfl, rfl, rfl⟩
    obtain ⟨u', hu', huu'⟩ := hs.exec_next hu
    obtain ⟨t, hrun, hidle, hhost, htu'⟩ :=
      run_overlapped (s := { s with host := a :: (early ++ rest), inFlight := some i }) rfl hr rfl he hrest hu'
    have htu := htu'.trans huu'.symm
    exact ⟨_, t, u, (core_run_succ hstep).trans hrun, hu, hidle, hhost, congrFun htu.reg_eq, htu.c, htu.dbuf⟩

end Sys2Proof.Machine
end

section
/-! The DBUF bytes a command writes (20_memory.md R61; 40_conversion.md R121). -/

namespace Sys2Proof.Machine

/-- A command that writes a register writes no DBUF byte (40_conversion.md R121). -/
theorem keepsDbuf_of_exec_of_writtenRegs {i : Instr} {s t : State} (hw : writtenRegs i ≠ [])
    (h : exec i s = .next t) : KeepsDbuf s t := by
  cases commandForm i with
  | value rd f hx _ _ =>
    cases (hx s).symm.trans h
    exact fun _ => rfl
  | valueAndC rd f p hx _ _ =>
    cases (hx s).symm.trans h
    exact fun _ => rfl
  | load rd n hx _ _ =>
    obtain ⟨_, rfl⟩ := importForm_next ((hx s).symm.trans h)
    exact fun _ => rfl
  | store _ _ _ _ hr _ => exact absurd hr hw
  | signedDiv f rd rs1 rs2 hx _ _ =>
    cases (hx s).symm.trans h
    rw [writeBack_eq]
    exact fun _ => rfl

theorem keepsDbufBut_of_exportForm {rs1 : Reg} {addr k : Nat} {s t : State} (h : exportForm rs1 addr k s = .next t) :
    KeepsDbufBut addr k s t := by
  obtain ⟨_, rfl⟩ := exportForm_next h
  exact fun a => s.dbufByte_memWrite_outside addr k _ a

theorem writtenBytes_wslice (rs1 : Reg) (n : Nat) : writtenBytes (.wslice rs1 n) = (n - 32, min n 32) := by
  by_cases h : 32 ≤ n
  · simp [writtenBytes, h]
  · have h' : n ≤ 32 := Nat.le_of_not_le h
    simp [writtenBytes, h, h']

/-- Settles O26: the four commands that store write the bytes of their export; every other writes a register. -/
theorem commandsWriteOnlyTheirDbufBytes : Obligations.CommandsWriteOnlyTheirDbufBytes := by
  intro i s t h
  cases i with
  | b32 rs1 => exact keepsDbufBut_of_exportForm (rs1 := rs1) (addr := 0) (k := 32) h
  | b20 rs1 => exact keepsDbufBut_of_exportForm (rs1 := rs1) (addr := 0) (k := 20) h
  | padb rs1 n => exact keepsDbufBut_of_exportForm (rs1 := rs1) (addr := 0) (k := n) h
  | wslice rs1 n =>
    rw [writtenBytes_wslice]
    exact keepsDbufBut_of_exportForm ((execWslice_eq_exportForm rs1 n s).symm.trans h)
  | _ => exact fun a _ => keepsDbuf_of_exec_of_writtenRegs (by simp [writtenRegs]) h a

end Sys2Proof.Machine
end

section
/-! The host register window (20_memory.md R64 to R69, R79): what guards an access, and what it meets in each region. -/

namespace Sys2Proof.Machine

/-! ### Before the offset is looked at -/

section Guard
variable {offset : Nat} {ag : Agent} {s : State} {access : Result}

theorem guardAccess_outside (h : Config.windowBytes ≤ offset) : guardAccess offset ag s access = .next s :=
  if_pos h

theorem guardAccess_resetHeld (ho : offset < Config.windowBytes) (hr : s.resetHeld = true) :
    guardAccess offset ag s access = .refused .accessDuringReset := by
  simp [guardAccess, Nat.not_le.mpr ho, hr]

theorem guardAccess_another (ho : offset < Config.windowBytes) (hr : s.resetHeld = false) :
    guardAccess offset .another s access = .refused .secondHost := by
  simp [guardAccess, Nat.not_le.mpr ho, hr]

end Guard

/-- An access that lands goes through the guard, whatever it is. -/
theorem step_of_lands_access {e : HostEvent} {offset : Nat} {ag : Agent} {early : Bool} {rest : List HostAction}
    {s : State} (he : (∃ d, e = .write offset d) ∨ ∃ w, e = .read offset w) (h : Lands ⟨e, ag, early⟩ rest s) :
    ∃ access, step s = guardAccess offset ag (s.withHost rest) access := by
  obtain ⟨d, rfl⟩ | ⟨w, rfl⟩ := he
  · exact ⟨hostWrite offset d (s.withHost rest), step_of_lands h⟩
  · exact ⟨hostRead offset w (s.withHost rest), step_of_lands h⟩

/-- Settles O10: the guard answers before the access itself is made. -/
theorem forbiddenAndForeignAccesses : Obligations.ForbiddenAndForeignAccesses := by
  intro e offset ag early rest s he hl
  obtain ⟨access, hstep⟩ := step_of_lands_access he hl
  rw [hstep]
  refine ⟨fun ho hr => guardAccess_resetHeld ho hr, ?_, fun ho => guardAccess_outside ho⟩
  rintro ho hr rfl
  exact guardAccess_another ho hr

/-! ### Reserved offsets -/

theorem hostWrite_reserved {offset : Nat} (h8 : reservedOffset ≤ offset) (h64 : offset < dbufOffset) (d : BusData)
    (s : State) : hostWrite offset d s = .next s := by
  simp [hostWrite, Nat.not_lt.mpr h8, h64]

theorem hostRead_reserved {offset : Nat} (h8 : reservedOffset ≤ offset) (h64 : offset < dbufOffset) (w : Width)
    (s : State) : hostRead offset w s = .next (s.drive (zeroData w)) := by
  simp [hostRead, Nat.not_lt.mpr h8, h64]

/-- Settles O17: a reserved offset ends an access before its data or width is looked at. -/
theorem reservedOffsetsReadZeroIgnoreWrites : Obligations.ReservedOffsetsReadZeroIgnoreWrites := by
  intro early rest s
  refine ⟨fun offset d h8 h63 h => ?_, fun offset w h8 h63 h => ?_, fun h => step_of_hostLands_read h (by decide)⟩
  · have h64 : offset < dbufOffset := Nat.lt_succ_of_le h63
    rw [step_of_hostLands_write h (h64.trans (by decide))]
    exact hostWrite_reserved h8 h64 d _
  · have h64 : offset < dbufOffset := Nat.lt_succ_of_le h63
    rw [step_of_hostLands_read h (h64.trans (by decide))]
    exact hostRead_reserved h8 h64 w _

/-! ### DBUF (20_memory.md R66, R69) -/

theorem dbuf_not_register (k : Nat) : ¬ dbufOffset + k < reservedOffset := by
  simp only [dbufOffset, reservedOffset]
  omega

theorem hostWrite_dbuf_byte (k : Nat) (b : Byte) (s : State) :
    hostWrite (dbufOffset + k) (.b8 b) s = writeDbuf k b s := by
  simp [hostWrite, dbuf_not_register]

theorem hostRead_dbuf_byte (k : Nat) (s : State) : hostRead (dbufOffset + k) .w8 s = readDbuf k s := by
  simp [hostRead, dbuf_not_register]

theorem writeDbuf_of_idle {k : Nat} {b : Byte} {s : State} (h : s.inFlight = none) :
    writeDbuf k b s = .next (s.setDbufByte k b) := by
  simp [writeDbuf, State.busy, h]

theorem writeDbuf_of_busy {k : Nat} {b : Byte} {s : State} (h : s.inFlight.isSome = true) :
    writeDbuf k b s = .next (s.dropWrite .dbufBusy) :=
  if_pos h

theorem readDbuf_of_idle {k : Nat} {s : State} (h : s.inFlight = none) :
    readDbuf k s = .next (s.drive (.b8 (s.dbufByte k))) := by
  simp [readDbuf, State.busy, h]

theorem readDbuf_of_busy {k : Nat} {s : State} (h : s.inFlight.isSome = true) :
    readDbuf k s = .next (s.drive (.b8 (Config.busyByte s.draws))).nextDraw :=
  if_pos h

theorem hostWrite_dbuf_wide {d : BusData} (h : d.width ≠ .w8) (k : Nat) (s : State) :
    hostWrite (dbufOffset + k) d s = .refused .dbufAccessWidth := by
  cases d with
  | b8 => exact absurd rfl h
  | b16 | b32 => simp [hostWrite, dbuf_not_register]

theorem hostRead_dbuf_wide {w : Width} (h : w ≠ .w8) (k : Nat) (s : State) :
    hostRead (dbufOffset + k) w s = .refused .dbufAccessWidth := by
  cases w with
  | w8 => exact absurd rfl h
  | w16 | w32 => simp [hostRead, dbuf_not_register]

theorem keepsDbufBut_setDbufByte (s : State) (k : Nat) (b : Byte) : KeepsDbufBut k 1 s (s.setDbufByte k b) :=
  fun _ ha => s.dbufByte_setDbufByte_of_ne b (by omega)

theorem step_of_dbuf_write {k : Nat} {b : Byte} {early : Bool} {rest : List HostAction} {s : State}
    (h : HostLands (.write (dbufOffset + k) (.b8 b)) early rest s) (hk : k < Config.dbufBytes) :
    step s = writeDbuf k b (s.withHost rest) :=
  (step_of_hostLands_write h (Nat.add_lt_add_left hk dbufOffset)).trans (hostWrite_dbuf_byte k b _)

theorem step_of_dbuf_read {k : Nat} {early : Bool} {rest : List HostAction} {s : State}
    (h : HostLands (.read (dbufOffset + k) .w8) early rest s) (hk : k < Config.dbufBytes) :
    step s = readDbuf k (s.withHost rest) :=
  (step_of_hostLands_read h (Nat.add_lt_add_left hk dbufOffset)).trans (hostRead_dbuf_byte k _)

/-- Settles O18: by BUSY, the kind of the access and its width. -/
theorem dbufWindowAccess : Obligations.DbufWindowAccess := by
  intro k early rest s hk
  have ho : dbufOffset + k < Config.windowBytes := Nat.add_lt_add_left hk dbufOffset
  refine ⟨fun b hi h => ?idleWrite, fun hi h => ?idleRead, fun hi h => ?busyRead, fun b hi h => ?busyWrite,
    fun d hd h => ?wideWrite, fun w hw h => ?wideRead⟩
  case idleWrite =>
    exact ⟨_, (step_of_dbuf_write h hk).trans (writeDbuf_of_idle hi), State.dbufByte_setDbufByte_same ..,
      keepsDbufBut_setDbufByte (s.withHost rest) k b, fun _ => rfl, rfl, ⟨rfl, rfl, rfl, rfl⟩, rfl⟩
  case idleRead =>
    exact ⟨_, (step_of_dbuf_read h hk).trans (readDbuf_of_idle hi), rfl, ⟨fun _ => rfl, rfl, fun _ => rfl⟩,
      ⟨rfl, rfl, rfl, rfl⟩, rfl⟩
  case busyRead =>
    exact ⟨_, _, (step_of_dbuf_read h hk).trans (readDbuf_of_busy hi), rfl, ⟨fun _ => rfl, rfl, fun _ => rfl⟩,
      ⟨rfl, rfl, rfl, rfl⟩, rfl, rfl⟩
  case busyWrite =>
    exact ⟨_, (step_of_dbuf_write h hk).trans (writeDbuf_of_busy hi), rfl, rfl, rfl,
      ⟨fun _ => rfl, rfl, fun _ => rfl⟩, rfl, rfl⟩
  case wideWrite => exact (step_of_hostLands_write h ho).trans (hostWrite_dbuf_wide hd k _)
  case wideRead => exact (step_of_hostLands_read h ho).trans (hostRead_dbuf_wide hw k _)

/-! ### CMD and STATUS (20_memory.md R65) -/

theorem acceptWord_answers (w : CmdWord) (s : State) : ∃ t, acceptWord w s = .next t := by
  unfold acceptWord
  split
  next e _ => exact ⟨_, rfl⟩
  next i hd =>
    split
    · exact ⟨_, rfl⟩
    · exact exec_answers_of_wf (wf_of_decode hd) s

theorem writeCmd_answers (w : CmdWord) (s : State) : ∃ t, writeCmd w s = .next t := by
  unfold writeCmd
  split
  · exact ⟨_, rfl⟩
  · exact acceptWord_answers w s

theorem register_offset_aligned_iff {offset : Nat} (ho : offset < reservedOffset) :
    offset % 4 = 0 ↔ offset = cmdOffset ∨ offset = statusOffset := by
  simp only [reservedOffset, cmdOffset, statusOffset] at ho ⊢
  omega

/-- A word written at CMD or STATUS is answered, and every other write before the reserved offsets is refused. -/
theorem hostWrite_register_refused_iff {offset : Nat} (ho : offset < reservedOffset) (d : BusData) (s : State) :
    hostWrite offset d s = .refused .registerAccessWidth ↔ ¬ (d.width = .w32 ∧ offset % 4 = 0) := by
  rw [register_offset_aligned_iff ho]
  cases d with
  | b8 | b16 => simp [hostWrite, ho, BusData.width]
  | b32 v =>
    by_cases hcmd : offset = cmdOffset
    · obtain ⟨t, ht⟩ := writeCmd_answers v s
      simp [hostWrite, BusData.width, hcmd, ht]
    · by_cases hst : offset = statusOffset
      · simp [hostWrite, BusData.width, hst]
      · simp [hostWrite, BusData.width, ho, hcmd, hst]

/-- A word read at CMD or STATUS is answered, and every other read before the reserved offsets is refused. -/
theorem hostRead_register_refused_iff {offset : Nat} (ho : offset < reservedOffset) (w : Width) (s : State) :
    hostRead offset w s = .refused .registerAccessWidth ↔ ¬ (w = .w32 ∧ offset % 4 = 0) := by
  rw [register_offset_aligned_iff ho]
  cases w with
  | w8 | w16 => simp [hostRead, ho]
  | w32 =>
    by_cases hcmd : offset = cmdOffset
    · simp [hostRead, hcmd]
    · by_cases hst : offset = statusOffset
      · simp [hostRead, readStatus, hst]
      · simp [hostRead, ho, hcmd, hst]

/-- Settles O19: the step is the access itself, refused exactly where it is no aligned word. -/
theorem registerAccessesAreAlignedWords : Obligations.RegisterAccessesAreAlignedWords := by
  intro offset early rest s h8
  have ho : offset < Config.windowBytes := h8.trans (by decide)
  refine ⟨fun d h => ?_, fun w h => ?_⟩
  · rw [step_of_hostLands_write h ho]
    exact hostWrite_register_refused_iff h8 d _
  · rw [step_of_hostLands_read h ho]
    exact hostRead_register_refused_iff h8 w _

end Sys2Proof.Machine
end

section
/-! The decoder's verdicts (30_encoding.md R95 to R99): which reserved fields its mask check reads, which opcodes have a
row, and the step that accepts a word with a verdict. -/

namespace Sys2Proof.Machine

/-! ### The fields of a word as numbers (30_encoding.md R91) -/

theorem toNat_opcodeOf (w : CmdWord) : (opcodeOf w).toNat = w.toNat / 2 ^ 24 := by
  have := w.isLt
  rw [opcodeOf, toNat_extract]
  omega

theorem opcodeOf_eq_of_toNat {w : CmdWord} {op : BitVec 8} (h : w.toNat / 2 ^ 24 = op.toNat) : opcodeOf w = op :=
  BitVec.eq_of_toNat_eq ((toNat_opcodeOf w).trans h)

theorem rdOf_val (w : CmdWord) : (rdOf w).val = w.toNat / 2 ^ 20 % 16 := toNat_extract w 20 4
theorem rs1Of_val (w : CmdWord) : (rs1Of w).val = w.toNat / 2 ^ 16 % 16 := toNat_extract w 16 4
theorem rs2Of_val (w : CmdWord) : (rs2Of w).val = w.toNat / 2 ^ 12 % 16 := toNat_extract w 12 4
theorem rs3Of_val (w : CmdWord) : (rs3Of w).val = w.toNat / 2 ^ 8 % 16 := toNat_extract w 8 4

theorem imm8Of_eq (w : CmdWord) : imm8Of w = w.toNat % 256 := by
  rw [imm8Of, toNat_extract]
  omega

theorem toNat_assembleWord (op : BitVec 8) (rd rs1 rs2 rs3 : Reg) (imm : BitVec 8) :
    (assembleWord op rd rs1 rs2 rs3 imm).toNat = op.toNat * 2 ^ 24 + rd.val * 2 ^ 20 + rs1.val * 2 ^ 16 +
      rs2.val * 2 ^ 12 + rs3.val * 2 ^ 8 + imm.toNat := by
  simp only [assembleWord_eq_packFields, toNat_packFields, toNat_regBits]

/-! ### The mask check (30_encoding.md R92, R96) -/

theorem extract_eq_zero_iff (w : CmdWord) (lo len : Nat) :
    w.extractLsb' lo len = 0#len ↔ w.toNat / 2 ^ lo % 2 ^ len = 0 := by
  rw [← BitVec.toNat_inj, toNat_extract, BitVec.toNat_ofNat, Nat.zero_mod]

/-- The check of R99 (2) passes exactly the words with the row's opcode whose reserved fields are all zero. -/
theorem mask_match_iff_reserved_zero (k : OpClass) (op : BitVec 8) (w : CmdWord) :
    w &&& k.mask = matchWord op ↔ opcodeOf w = op ∧ ¬ ReservedNonZero k w := by
  conv_lhs => rw [eq_packFields w]
  rw [mask_match_iff]
  cases k <;>
    simp [OpClass.maskFields, ReservedNonZero, and_ones4, and_ones8, extract_eq_zero_iff]

/-! ### The rows of the listed opcodes (30_encoding.md R95, R98) -/

/-- R95's ranges are exactly the opcodes that stand in no row. -/
theorem opRow?_eq_none_iff (op : BitVec 8) : opRow? op = none ↔ UnlistedOpcode op.toNat := by
  have hrows : opRow? op = none ↔ ∀ row ∈ opTable, row.code ≠ op := by simp [opRow?]
  rw [hrows]
  simp only [opTable, conversionRows, arithmeticRows, modularShiftRows, compareSignExpRows, unRow, binRow, terRow,
    List.forall_mem_append, List.forall_mem_cons, List.not_mem_nil, false_implies, implies_true, and_true,
    UnlistedOpcode]
  bv_omega

theorem opRow?_opcodeByte (i : Instr) : ∃ row, opRow? (opcodeByte i) = some row ∧ row.cls = classOf i := by
  cases i <;> exact ⟨_, rfl, rfl⟩

/-! ### The verdicts on a word with a listed opcode (30_encoding.md R96, R97, R99) -/

section Listed
variable {w : CmdWord} {i : Instr}

/-- The verdicts exclude each other: a non-zero reserved field, or else a byte count out of range, or else a command. -/
theorem decode_cases_of_listed (hop : opcodeOf w = opcodeByte i) :
    (ReservedNonZero (classOf i) w ∧ decode w = .error .reservedField) ∨
    (¬ ReservedNonZero (classOf i) w ∧ ((classOf i).usesLength = true ∧ 64 < imm8Of w) ∧
      decode w = .error .lengthRange) ∨
    (¬ ReservedNonZero (classOf i) w ∧ ¬ ((classOf i).usesLength = true ∧ 64 < imm8Of w) ∧
      ∃ j, decode w = .ok j) := by
  obtain ⟨row, hrow, hcls⟩ := opRow?_opcodeByte i
  have hm : w &&& row.cls.mask ≠ matchWord row.code ↔ ReservedNonZero row.cls w := by
    simp [mask_match_iff_reserved_zero, hop, (opRow?_some hrow).2]
  unfold decode
  rw [hop, hrow, ← hcls]
  dsimp only
  split
  · exact .inl ⟨hm.mp ‹_›, rfl⟩
  · split
    · exact .inr (.inl ⟨mt hm.mpr ‹_›, ‹_›, rfl⟩)
    · exact .inr (.inr ⟨mt hm.mpr ‹_›, ‹_›, _, rfl⟩)

theorem decode_reservedField_iff (hop : opcodeOf w = opcodeByte i) :
    decode w = .error .reservedField ↔ ReservedNonZero (classOf i) w := by
  obtain ⟨h, hd⟩ | ⟨h, -, hd⟩ | ⟨h, -, j, hd⟩ := decode_cases_of_listed hop <;> simp [h, hd]

theorem decode_lengthRange_iff (hop : opcodeOf w = opcodeByte i) :
    decode w = .error .lengthRange ↔
      ¬ ReservedNonZero (classOf i) w ∧ (classOf i).usesLength = true ∧ 64 < imm8Of w := by
  obtain ⟨h, hd⟩ | ⟨h, hl, hd⟩ | ⟨h, hl, j, hd⟩ := decode_cases_of_listed hop
  · simp [h, hd]
  · simp [h, hd, hl]
  · simp [h, hd, hl]

end Listed

/-- Only the missing row gives UNDEF_OPCODE. -/
theorem decode_undefOpcode_iff (w : CmdWord) :
    decode w = .error .undefOpcode ↔ UnlistedOpcode (w.toNat / 2 ^ 24) := by
  rw [← toNat_opcodeOf, ← opRow?_eq_none_iff]
  unfold decode
  cases opRow? (opcodeOf w) with
  | none => simp
  | some row =>
    simp only [reduceCtorEq, iff_false]
    split
    · simp
    · split <;> simp

/-! ### The step that accepts an illegal word (60_exceptions.md R255) -/

theorem step_of_accepts_error {w : CmdWord} {e : DecodeError} {rest : List HostAction} {s : State}
    (ha : Accepts w rest s) (hd : decode w = .error e) : step s = .next ((s.withHost rest).raiseIllegal e) := by
  rw [step_of_accepts ha]
  simp [acceptWord, hd]

/-- The step raises IllegalCommand with the verdict's cause, and the core stays idle with its data unchanged. -/
theorem accepting_error_raises {w : CmdWord} {e : DecodeError} {rest : List HostAction} {s : State}
    (ha : Accepts w rest s) (hd : decode w = .error e) :
    ∃ t, step s = .next t ∧ t.ill = true ∧ t.cause = causeOf e ∧ KeepsData s t ∧ t.inFlight = none :=
  ⟨_, step_of_accepts_error ha hd, rfl, rfl, ⟨fun _ => rfl, rfl, fun _ => rfl⟩, ha.2⟩

/-! ### The illegal words -/

/-- Settles O4: a word gets UNDEF_OPCODE exactly where its opcode has no row. -/
theorem unlistedOpcodesAreIllegal : Obligations.UnlistedOpcodesAreIllegal := by
  refine ⟨decode_undefOpcode_iff, (decode_undefOpcode_iff _).mpr (.inl rfl), fun w rest s ha hw => ?_⟩
  exact accepting_error_raises ha ((decode_undefOpcode_iff w).mpr hw)

/-- Settles O5: the mask of a class checks the opcode and exactly the reserved fields. -/
theorem nonZeroReservedFieldsAreIllegal : Obligations.NonZeroReservedFieldsAreIllegal := by
  intro i w hw
  have hop : opcodeOf w = opcodeByte i := opcodeOf_eq_of_toNat hw
  exact ⟨decode_reservedField_iff hop, fun _ _ ha hres =>
    accepting_error_raises ha ((decode_reservedField_iff hop).mpr hres)⟩

/-- A SETB, WSLICE or PADB word with zero reserved fields, by its number: its class has a byte count, and it is `n`. -/
theorem length_word_fields {r : Reg} {n : Nat} {w : CmdWord} (hn : n < 256)
    (hw : w.toNat = 0x03 * 2 ^ 24 + r.val * 2 ^ 20 + n ∨ w.toNat = 0x06 * 2 ^ 24 + r.val * 2 ^ 16 + n ∨
      w.toNat = 0x07 * 2 ^ 24 + r.val * 2 ^ 16 + n) :
    ∃ i, opcodeOf w = opcodeByte i ∧ (classOf i).usesLength = true ∧ ¬ ReservedNonZero (classOf i) w ∧
      imm8Of w = n := by
  have hr := r.isLt
  have himm := imm8Of_eq w
  obtain h | h | h := hw
  · refine ⟨.setb r n, opcodeOf_eq_of_toNat (show _ = 0x03 by omega), rfl, ?_, by omega⟩
    simp only [classOf, ReservedNonZero]
    omega
  · refine ⟨.wslice r n, opcodeOf_eq_of_toNat (show _ = 0x06 by omega), rfl, ?_, by omega⟩
    simp only [classOf, ReservedNonZero]
    omega
  · refine ⟨.padb r n, opcodeOf_eq_of_toNat (show _ = 0x07 by omega), rfl, ?_, by omega⟩
    simp only [classOf, ReservedNonZero]
    omega

/-- Settles O6: with the reserved fields zero only the byte count is left to check. -/
theorem lengthsAbove64AreIllegal : Obligations.LengthsAbove64AreIllegal := by
  intro r n w hn hw
  obtain ⟨i, hop, hlen, hres, himm⟩ := length_word_fields hn hw
  have key : decode w = .error .lengthRange ↔ 64 < n := by
    simp [decode_lengthRange_iff hop, hres, hlen, himm]
  exact ⟨key, fun _ _ ha h64 => accepting_error_raises ha (key.mpr h64)⟩

end Sys2Proof.Machine
end

section
/-! The round trips of the encoding (30_encoding.md R90 to R99): decoding an encoded command gives it back, and every
word the decoder reads is the encoding of what it reads. -/

namespace Sys2Proof.Machine

/-! ### Decoding an encoded command -/

theorem length_le_of_lengthOk {n : Nat} (h : lengthOk n = true) : n ≤ Config.dbufBytes := of_decide_eq_true h

/-- Settles O2: the opcode finds the command's own row, whose class reads back the fields the encoder placed. -/
theorem decodeOfEncodeGivesBack : Obligations.DecodeOfEncodeGivesBack := by
  intro i h
  cases i with
  | clr rd => exact decode_z opRow?_clr rd
  | mov rd rs1 => exact decode_un opRow?_mov rd rs1
  | setb rd n => exact decode_ld opRow?_setb rd (length_le_of_lengthOk h)
  | b32 rs1 => exact decode_st opRow?_b32 rs1
  | b20 rs1 => exact decode_st opRow?_b20 rs1
  | wslice rs1 n => exact decode_stn opRow?_wslice rs1 (length_le_of_lengthOk h)
  | padb rs1 n => exact decode_stn opRow?_padb rs1 (length_le_of_lengthOk h)
  | u64 rd rs1 => exact decode_un opRow?_u64 rd rs1
  | i64 rd rs1 => exact decode_un opRow?_i64 rd rs1
  | u64o rd rs1 => exact decode_un opRow?_u64o rd rs1
  | isu64 rd rs1 => exact decode_un opRow?_isu64 rd rs1
  | isu128 rd rs1 => exact decode_un opRow?_isu128 rd rs1
  | add rd rs1 rs2 => exact decode_bin opRow?_add rd rs1 rs2
  | addo rd rs1 rs2 => exact decode_bin opRow?_addo rd rs1 rs2
  | sub rd rs1 rs2 => exact decode_bin opRow?_sub rd rs1 rs2
  | subo rd rs1 rs2 => exact decode_bin opRow?_subo rd rs1 rs2
  | sub64 rd rs1 rs2 => exact decode_bin opRow?_sub64 rd rs1 rs2
  | mul rd rs1 rs2 => exact decode_bin opRow?_mul rd rs1 rs2
  | sqr rd rs1 => exact decode_un opRow?_sqr rd rs1
  | div rd rs1 rs2 => exact decode_bin opRow?_div rd rs1 rs2
  | mod rd rs1 rs2 => exact decode_bin opRow?_mod rd rs1 rs2
  | addmod rd rs1 rs2 rs3 => exact decode_ter opRow?_addmod rd rs1 rs2 rs3
  | mulmod rd rs1 rs2 rs3 => exact decode_ter opRow?_mulmod rd rs1 rs2 rs3
  | sdiv rd rs1 rs2 => exact decode_bin opRow?_sdiv rd rs1 rs2
  | smod rd rs1 rs2 => exact decode_bin opRow?_smod rd rs1 rs2
  | lsh rd rs1 rs2 => exact decode_bin opRow?_lsh rd rs1 rs2
  | rsh rd rs1 rs2 => exact decode_bin opRow?_rsh rd rs1 rs2
  | srsh rd rs1 rs2 => exact decode_bin opRow?_srsh rd rs1 rs2
  | lt rd rs1 rs2 => exact decode_bin opRow?_lt rd rs1 rs2
  | gt rd rs1 rs2 => exact decode_bin opRow?_gt rd rs1 rs2
  | slt rd rs1 rs2 => exact decode_bin opRow?_slt rd rs1 rs2
  | sgt rd rs1 rs2 => exact decode_bin opRow?_sgt rd rs1 rs2
  | cmp rd rs1 rs2 => exact decode_bin opRow?_cmp rd rs1 rs2
  | sign rd rs1 => exact decode_un opRow?_sign rd rs1
  | abs rd rs1 => exact decode_un opRow?_abs rd rs1
  | neg rd rs1 => exact decode_un opRow?_neg rd rs1
  | exp rd rs1 rs2 => exact decode_bin opRow?_exp rd rs1 rs2

/-! ### Encoding a decoded command -/

/-- The word with opcode `op` and the fields of `w` that a class uses: zeros where the class reserves the field. -/
def usedFieldsWord (op : BitVec 8) (w : CmdWord) : OpClass → CmdWord
  | .z => encodeZ op (rdOf w)
  | .un => encodeUn op (rdOf w) (rs1Of w)
  | .bin => encodeBin op (rdOf w) (rs1Of w) (rs2Of w)
  | .ter => encodeTer op (rdOf w) (rs1Of w) (rs2Of w) (rs3Of w)
  | .ld => encodeLd op (rdOf w) (imm8Of w)
  | .st => encodeSt op (rs1Of w)
  | .stn => encodeStn op (rs1Of w) (imm8Of w)

/-- What a row builds from a word is encoded under the row's own opcode, by the row's own class. -/
theorem encode_build_eq_usedFieldsWord (w : CmdWord) : ∀ row ∈ opTable,
    encode (row.build w) = usedFieldsWord row.code w row.cls := by
  simp only [opTable, conversionRows, arithmeticRows, modularShiftRows, compareSignExpRows, List.forall_mem_append,
    List.forall_mem_cons, List.not_mem_nil, false_implies, implies_true, and_true]
  and_intros <;> rfl

/-- A word that passes the mask check has nothing outside its opcode and the fields its class uses. -/
theorem usedFieldsWord_eq_self {k : OpClass} {op : BitVec 8} {w : CmdWord} (hm : w &&& k.mask = matchWord op) :
    usedFieldsWord op w k = w := by
  obtain ⟨rfl, hres⟩ := (mask_match_iff_reserved_zero k op w).mp hm
  apply BitVec.eq_of_toNat_eq
  have := w.isLt
  cases k
  all_goals
    simp only [ReservedNonZero, usedFieldsWord, encodeZ, encodeUn, encodeBin, encodeTer, encodeLd, encodeSt, encodeStn,
      toNat_assembleWord, toNat_opcodeOf, rdOf_val, rs1Of_val, rs2Of_val, rs3Of_val, imm8Of_eq, BitVec.toNat_ofNat,
      Fin.val_zero] at hres ⊢
    omega

/-- Settles O3: the mask check lets no bit outside the fields the command keeps be set. -/
theorem encodeOfDecodeGivesBack : Obligations.EncodeOfDecodeGivesBack := by
  intro w i h
  refine ⟨wf_of_decode h, ?_⟩
  obtain ⟨row, hrow, hm, -, rfl⟩ := decode_ok_cases h
  rw [encode_build_eq_usedFieldsWord w row (opRow?_some hrow).1]
  exact usedFieldsWord_eq_self hm

/-! ### The example words (30_encoding.md R100) -/

/-- Settles O1: each word is the encoding of its command. -/
theorem exampleWordsDecode : Obligations.ExampleWordsDecode :=
  ⟨decodeOfEncodeGivesBack (.clr 3) rfl, decodeOfEncodeGivesBack (.neg 1 2) rfl,
    decodeOfEncodeGivesBack (.add 1 2 3) rfl, decodeOfEncodeGivesBack (.mulmod 1 2 3 4) rfl,
    decodeOfEncodeGivesBack (.setb 1 32) rfl, decodeOfEncodeGivesBack (.b32 5) rfl,
    decodeOfEncodeGivesBack (.padb 5 40) rfl⟩

end Sys2Proof.Machine
end

section
/-! The assembler's aliases (30_encoding.md R101). -/

namespace Sys2Proof.Machine

theorem regOperand?_x (r : Reg) : regOperand? (.x r.val) = some r := dif_pos r.isLt

theorem countOperand?_count {n : Nat} (hn : n ≤ 64) : countOperand? (.count n) = some n := if_pos hn

theorem oneReg_x (mk : Reg → Instr) (r : Reg) : oneReg mk [.x r.val] = some (mk r) := by
  simp [oneReg, regOperand?_x]

theorem twoRegs_x (mk : Reg → Reg → Instr) (r q : Reg) : twoRegs mk [.x r.val, .x q.val] = some (mk r q) := by
  simp [twoRegs, regOperand?_x]

theorem regAndCount_x (mk : Reg → Nat → Instr) (r : Reg) {n : Nat} (hn : n ≤ 64) :
    regAndCount mk [.x r.val, .count n] = some (mk r n) := by
  simp [regAndCount, regOperand?_x, countOperand?_count hn]

/-- No mnemonic of R98 and none of the other aliases stands before the row of R101. -/
theorem assemble_alias (operands : List Operand) : ∀ row ∈ aliasRows, assemble row.1 operands = row.2 operands := by
  simp only [aliasRows, List.forall_mem_cons, List.not_mem_nil, false_implies, implies_true, and_true]
  and_intros <;> rfl

/-- Settles O7: each of the aliases is read by the parser of its own row. -/
theorem aliasesExpandToOneCommand : Obligations.AliasesExpandToOneCommand := by
  intro r q n hn
  have one (m : String) (mk : Reg → Instr) (h : (m, oneReg mk) ∈ aliasRows) : assemble m [.x r.val] = some (mk r) :=
    (assemble_alias _ _ h).trans (oneReg_x mk r)
  refine ⟨one _ _ ?_, one _ _ ?_, one _ _ ?_, one _ _ ?_, one _ _ ?_,
    (assemble_alias _ ("SQUARED", twoRegs .sqr) ?_).trans (twoRegs_x .sqr r q),
    (assemble_alias _ ("SETBYTES", regAndCount .setb) ?_).trans (regAndCount_x .setb r hn)⟩
  all_goals simp [aliasRows]

end Sys2Proof.Machine
end

section
/-! Commands that only write a register, or a register and C: the result rule of each kind, and CLR, MOV and the
low-word commands (40_conversion.md R122, R123, R131 to R135). -/

namespace Sys2Proof.Machine

/-! ### What is left by a write of a register, and of a register and C -/

section Result
variable {i : Instr} {s : State} {rd : Reg} {v : U256} {n : Nat}

/-- A command that completes as a write of `rd` leaves the value there and changes nothing else. -/
theorem result_of_setReg (hx : exec i s = .next (s.setReg rd v)) (hv : v.toNat = n) :
    ∃ t, exec i s = .next t ∧ (t.reg rd).toNat = n ∧ WritesRegs [rd] s t :=
  ⟨_, hx, by rwa [State.reg_setReg_same], writesRegs_setReg s rd v⟩

/-- A command that completes as a write of `rd` and C leaves both values there and changes nothing else. -/
theorem result_of_setReg_setC {b : Bool} {q : Prop} (hx : exec i s = .next ((s.setReg rd v).setC b))
    (hv : v.toNat = n) (hb : b = true ↔ q) :
    ∃ t, exec i s = .next t ∧ (t.reg rd).toNat = n ∧ (t.c = true ↔ q) ∧ WritesRegsAndC [rd] s t :=
  ⟨_, hx, by rwa [State.reg_setC, State.reg_setReg_same], hb, writesRegsAndC_setReg_setC s rd v b⟩

end Result

/-- Settles O33: each is one write of rd. -/
theorem clrAndMovResults : Obligations.ClrAndMovResults := by
  intro rd rs1 s
  exact ⟨⟨decodeOfEncodeGivesBack (.clr rd) rfl, _, rfl, s.reg_setReg_same rd _, writesRegs_setReg s rd _⟩,
    decodeOfEncodeGivesBack (.mov rd rs1) rfl, _, rfl, s.reg_setReg_same rd _, writesRegs_setReg s rd _⟩

/-! ### The words of a value (00_scope.md R13) -/

theorem toNat_wordOf (a : U256) (k : Nat) : (wordOf a k).toNat = a.toNat / 2 ^ (64 * k) % 2 ^ 64 := by
  simp [wordOf, BitVec.extractLsb'_toNat, Nat.shiftRight_eq_div_pow]

theorem toNat_wordOf_zero (a : U256) : (wordOf a 0).toNat = a.toNat % 2 ^ 64 := by
  rw [toNat_wordOf, Nat.mul_zero, Nat.pow_zero, Nat.div_one]

theorem toNat_lowWord (a : U256) : (lowWord a).toNat = a.toNat % 2 ^ 64 := by
  rw [lowWord, BitVec.toNat_setWidth, toNat_wordOf_zero]
  omega

/-- Sign extension of the low word adds the ones above it exactly when bit 63 is set (40_conversion.md R132). -/
theorem toNat_lowWordSigned (a : U256) :
    (lowWordSigned a).toNat =
      if a.toNat % 2 ^ 64 < 2 ^ 63 then a.toNat % 2 ^ 64 else a.toNat % 2 ^ 64 + (2 ^ 256 - 2 ^ 64) := by
  rw [lowWordSigned, BitVec.toNat_signExtend, BitVec.toNat_setWidth, BitVec.msb_eq_decide, toNat_wordOf_zero,
    Nat.mod_eq_of_lt (show a.toNat % 2 ^ 64 < 2 ^ 256 by omega)]
  by_cases hs : a.toNat % 2 ^ 64 < 2 ^ 63
  · rw [if_pos hs, decide_eq_false (by omega), if_neg Bool.false_ne_true, Nat.add_zero]
  · rw [if_neg hs, decide_eq_true (by omega), if_pos rfl]

theorem wordOf_beq_zero_iff (a : U256) (k : Nat) : (wordOf a k == 0) = true ↔ a.toNat / 2 ^ (64 * k) % 2 ^ 64 = 0 := by
  rw [beq_iff_eq, ← BitVec.toNat_inj, toNat_wordOf]
  rfl

/-- Words 1, 2 and 3 are zero exactly below 2^64 (40_conversion.md R134). -/
theorem fits64_iff (a : U256) : fits64 a = true ↔ a.toNat < 2 ^ 64 := by
  have := a.isLt
  simp only [fits64, Bool.and_eq_true, wordOf_beq_zero_iff]
  omega

/-- Words 2 and 3 are zero exactly below 2^128 (40_conversion.md R135). -/
theorem fits128_iff (a : U256) : fits128 a = true ↔ a.toNat < 2 ^ 128 := by
  have := a.isLt
  simp only [fits128, Bool.and_eq_true, wordOf_beq_zero_iff]
  omega

theorem exceeds64_eq_not_fits64 (a : U256) : exceeds64 a = !fits64 a := by
  simp only [exceeds64, fits64, bne, Bool.not_and]

theorem exceeds64_iff (a : U256) : exceeds64 a = true ↔ 2 ^ 64 ≤ a.toNat := by
  rw [exceeds64_eq_not_fits64, Bool.not_eq_true', ← Bool.not_eq_true, fits64_iff, Nat.not_lt]

theorem toNat_b2v_of_iff {b : Bool} {q : Prop} [Decidable q] (h : b = true ↔ q) :
    (b2v b).toNat = if q then 1 else 0 := by
  by_cases hq : q
  · simp [b2v, h.mpr hq, hq]
  · simp [b2v, mt h.mp hq, hq]

/-- Settles O40: the values are those of word 0, and U64O's C says whether a higher word is non-zero. -/
theorem lowWordExtraction : Obligations.LowWordExtraction := by
  intro rd rs1 s
  exact ⟨⟨decodeOfEncodeGivesBack (.u64 rd rs1) rfl, result_of_setReg rfl (toNat_lowWord _)⟩,
    ⟨decodeOfEncodeGivesBack (.i64 rd rs1) rfl, result_of_setReg rfl (toNat_lowWordSigned _)⟩,
    decodeOfEncodeGivesBack (.u64o rd rs1) rfl, result_of_setReg_setC rfl (toNat_lowWord _) (exceeds64_iff _)⟩

/-- A predicate of one source leaves its truth value in rd and in C. -/
theorem result_of_unaryPredicate {i : Instr} {p : U256 → Bool} {rd rs1 : Reg} {s : State} {q : Prop} [Decidable q]
    (hx : exec i s = unaryPredicate p rd rs1 s) (h : p (s.reg rs1) = true ↔ q) :
    ∃ t, exec i s = .next t ∧ (t.reg rd).toNat = (if q then 1 else 0) ∧ (t.c = true ↔ q) ∧
      WritesRegsAndC [rd] s t :=
  result_of_setReg_setC hx (toNat_b2v_of_iff h) h

/-- Settles O41: the high words are zero exactly when the value fits. -/
theorem widthPredicates : Obligations.WidthPredicates := by
  intro rd rs1 s
  exact ⟨⟨decodeOfEncodeGivesBack (.isu64 rd rs1) rfl, result_of_unaryPredicate rfl (fits64_iff _)⟩,
    decodeOfEncodeGivesBack (.isu128 rd rs1) rfl, result_of_unaryPredicate rfl (fits128_iff _)⟩

end Sys2Proof.Machine
end

section
/-! The commands between registers and DBUF (40_conversion.md R124 to R130): what `MemRead` and `MemWrite` give byte by
byte, and from it the import, the exports and the laws between them. -/

namespace Sys2Proof.Machine

/-! ### Bytes of a number -/

/-- Byte `j` of a number is below the cut of a reduction modulo 2^m. -/
theorem byte_mod_two_pow {j m : Nat} (h : 8 * j + 8 ≤ m) (v : Nat) :
    v % 2 ^ m / 2 ^ (8 * j) % 256 = v / 2 ^ (8 * j) % 256 := by
  obtain ⟨d, rfl⟩ := Nat.exists_eq_add_of_le h
  rw [add_assoc, pow_add, Nat.mod_mul_right_div_self]
  exact Nat.mod_mod_of_dvd _ ⟨2 ^ d, by rw [pow_add]; norm_num⟩

theorem wrap_toNat (v : U256) : wrap v.toNat = v := by
  rw [wrap, BitVec.ofNat_toNat, BitVec.setWidth_eq]

theorem byteOf_wrap {j : Nat} (hj : j < 32) (v : Nat) : byteOf (wrap v) j = BitVec.ofNat 8 (v / 2 ^ (8 * j) % 256) := by
  rw [byteOf, wrap, BitVec.toNat_ofNat, byte_mod_two_pow (by omega)]

/-- A value has no byte above its 32 (40_conversion.md R128). -/
theorem byteOf_of_ge (v : U256) {j : Nat} (hj : 32 ≤ j) : byteOf v j = 0#8 := by
  have hv : v.toNat < 2 ^ (8 * j) := v.isLt.trans_le (Nat.pow_le_pow_right (by decide) (by omega))
  rw [byteOf, Nat.div_eq_of_lt hv]

/-! ### `MemRead` byte by byte -/

/-- Byte `i` of the bytes `MemRead` names is bits `8(n-1-i)+7 : 8(n-1-i)` of the value it gives (00_scope.md R15). -/
theorem State.memRead_byte (s : State) (addr : Nat) {n i : Nat} (h : i < n) :
    s.memRead addr n / 2 ^ (8 * (n - 1 - i)) % 256 = (s.dbufByte (addr + i)).toNat := by
  induction n with
  | zero => omega
  | succ n ih =>
    have hb := (s.dbufByte (addr + n)).isLt
    simp only [State.memRead]
    by_cases hi : i = n
    · subst hi
      simp only [Nat.add_sub_cancel, Nat.sub_self, Nat.mul_zero, Nat.pow_zero, Nat.div_one]
      omega
    · have hexp : 2 ^ (8 * (n + 1 - 1 - i)) = 256 * 2 ^ (8 * (n - 1 - i)) := by
        rw [show 8 * (n + 1 - 1 - i) = 8 + 8 * (n - 1 - i) by omega, pow_add]
        norm_num
      have hdiv : (s.memRead addr n * 256 + (s.dbufByte (addr + n)).toNat) / 256 = s.memRead addr n := by omega
      rw [hexp, ← Nat.div_div_eq_div_mul, hdiv, ih (by omega)]

theorem State.memRead_zero_eq_firstBytesValue (s : State) (n : Nat) : s.memRead 0 n = firstBytesValue s n := by
  induction n with
  | zero => rfl
  | succ n ih => simp [State.memRead, ih, firstBytesValue, List.range_succ]

/-! ### The import (40_conversion.md R124) -/

theorem exec_setb_of_le {n : Nat} (hn : n ≤ 64) (rd : Reg) (s : State) :
    exec (.setb rd n) s = .next (s.setReg rd (wrap (s.memRead 0 n))) :=
  if_pos hn

/-- Settles O34: the import is one write of rd, of the value `MemRead` gives. -/
theorem setbLoadsBigEndianBytes : Obligations.SetbLoadsBigEndianBytes := by
  intro rd n s
  refine ⟨fun hn => ⟨decodeOfEncodeGivesBack (.setb rd n) (decide_eq_true hn), ?_⟩, fun h64 h256 => ?_⟩
  · rw [← State.memRead_zero_eq_firstBytesValue]
    exact result_of_setReg (exec_setb_of_le hn rd s) (BitVec.toNat_ofNat ..)
  · refine (lengthsAbove64AreIllegal rd n _ h256 (.inl ?_)).1.mpr h64
    simp [toNat_assembleWord, Nat.mod_eq_of_lt h256]

/-! ### The exports (40_conversion.md R125 to R128) -/

theorem exportForm_of_le {addr k : Nat} (h : addr + k ≤ 64) (rs1 : Reg) (s : State) :
    exportForm rs1 addr k s = .next (s.memWrite addr k ((s.reg rs1).toNat % 2 ^ (8 * k))) :=
  if_pos h

/-- A store inside DBUF writes the low `k` bytes of x[rs1] from `addr`, most significant first, and nothing else. -/
theorem exportForm_result {addr k : Nat} (h : addr + k ≤ 64) (rs1 : Reg) (s : State) :
    ∃ t, exportForm rs1 addr k s = .next t ∧ (∀ i, i < k → t.dbufByte (addr + i) = byteOf (s.reg rs1) (k - 1 - i)) ∧
      WritesDbuf addr k s t := by
  refine ⟨_, exportForm_of_le h rs1 s, fun i hi => ?_, writesDbuf_memWrite s addr k _⟩
  rw [s.dbufByte_memWrite_inside addr k _ i hi, byte_mod_two_pow (by omega), byteOf]

/-- A store from byte 0 writes the low `k` bytes of x[rs1] to DBUF[0..k-1] and nothing else. -/
theorem exportForm_zero_result {k : Nat} (h : k ≤ 64) (rs1 : Reg) (s : State) :
    ∃ t, exportForm rs1 0 k s = .next t ∧ (∀ i, i < k → t.dbufByte i = byteOf (s.reg rs1) (k - 1 - i)) ∧
      WritesDbuf 0 k s t := by
  simpa only [Nat.zero_add] using exportForm_result (addr := 0) (by omega) rs1 s

/-- B32 writes the whole value: no byte of it is cut (40_conversion.md R125). -/
theorem exec_b32_eq (rs1 : Reg) (s : State) : exec (.b32 rs1) s = .next (s.memWrite 0 32 (s.reg rs1).toNat) := by
  have hv : (s.reg rs1).toNat % 2 ^ (8 * 32) = (s.reg rs1).toNat := Nat.mod_eq_of_lt (s.reg rs1).isLt
  rw [← hv]
  exact exportForm_of_le (addr := 0) (k := 32) (by decide) rs1 s

/-- Settles O35: both are exports from byte 0. -/
theorem fixedExportsWriteBigEndianBytes : Obligations.FixedExportsWriteBigEndianBytes := by
  intro rs1 s
  exact ⟨⟨decodeOfEncodeGivesBack (.b32 rs1) rfl, exportForm_zero_result (k := 32) (by decide) rs1 s⟩,
    decodeOfEncodeGivesBack (.b20 rs1) rfl, exportForm_zero_result (k := 20) (by decide) rs1 s⟩

/-- Settles O36: WSLICE is a store of the bytes that fit, which end at byte `n - 1`. -/
theorem wsliceWritesTheBytesThatFit : Obligations.WsliceWritesTheBytesThatFit := by
  intro rs1 n s
  have hx : exec (.wslice rs1 n) s = exportForm rs1 (n - 32) (min n 32) s := execWslice_eq_exportForm rs1 n s
  refine ⟨fun hn => decodeOfEncodeGivesBack (.wslice rs1 n) (decide_eq_true hn), fun h32 h64 => ?_, fun h32 => ?_,
    fun h64 h256 => ?_⟩
  · rw [hx, Nat.min_eq_right h32]
    exact exportForm_result (by omega) rs1 s
  · rw [hx, Nat.min_eq_left h32.le, Nat.sub_eq_zero_of_le h32.le]
    exact exportForm_zero_result (by omega) rs1 s
  · refine (lengthsAbove64AreIllegal rs1 n _ h256 (.inr (.inl ?_))).1.mpr h64
    simp [toNat_assembleWord, Nat.mod_eq_of_lt h256]

/-- Settles O37: PADB is a store of `n` bytes from byte 0, and those above the 32 of the value are 0. -/
theorem padbWritesPaddedBytes : Obligations.PadbWritesPaddedBytes := by
  intro rs1 n s
  refine ⟨fun hn => ⟨decodeOfEncodeGivesBack (.padb rs1 n) (decide_eq_true hn), ?_⟩, fun h64 h256 => ?_⟩
  · obtain ⟨t, ht, hbytes, hframe⟩ := exportForm_zero_result hn rs1 s
    refine ⟨t, ht, hbytes, fun i hi => ?_, hframe⟩
    rw [hbytes i (by omega), byteOf_of_ge _ (by omega)]
  · refine (lengthsAbove64AreIllegal rs1 n _ h256 (.inr (.inr ?_))).1.mpr h64
    simp [toNat_assembleWord, Nat.mod_eq_of_lt h256]

/-! ### Round trips and agreement (40_conversion.md R129, R130) -/

/-- Settles O38: an exported byte is the byte the import read, and the import reads the number the store wrote. -/
theorem byteRoundTrips : Obligations.ByteRoundTrips := by
  intro rd rs s
  constructor
  · obtain ⟨u, hu, hbytes, _, _, hout, _⟩ :=
      exportForm_zero_result (k := 32) (by decide) rd (s.setReg rd (wrap (s.memRead 0 32)))
    refine ⟨_, u, exec_setb_of_le (by decide) rd s, hu, fun a => ?_⟩
    by_cases ha : a < 32
    · rw [hbytes a ha, State.reg_setReg_same, byteOf_wrap (by omega), s.memRead_byte 0 ha, Nat.zero_add,
        BitVec.ofNat_toNat, BitVec.setWidth_eq]
    · exact hout a (by omega)
  · refine ⟨_, _, exec_b32_eq rs s, exec_setb_of_le (by decide) rd _, ?_⟩
    rw [State.reg_setReg_same, State.memRead_memWrite, Nat.mod_eq_of_lt (s.reg rs).isLt, wrap_toNat]

/-- Up to 32 bytes WSLICE and PADB are the same store. -/
theorem exec_wslice_eq_padb {n : Nat} (hn : n ≤ 32) (rs1 : Reg) (s : State) :
    exec (.wslice rs1 n) s = exec (.padb rs1 n) s := by
  change execWslice rs1 n s = execPadb rs1 n s
  rw [execWslice_eq_exportForm, Nat.min_eq_left hn, Nat.sub_eq_zero_of_le hn, execPadb]

/-- Settles O39: above 32 bytes both write the 32 bytes of the value at DBUF[n-32..n-1], and PADB also the zeros below
them. -/
theorem exportsAgree : Obligations.ExportsAgree := by
  intro rs1 n s
  refine ⟨fun hn => exec_wslice_eq_padb hn rs1 s, fun h32 h64 => ?_, (exec_wslice_eq_padb le_rfl rs1 s).symm, rfl,
    (exec_wslice_eq_padb (n := 20) (by decide) rs1 s).symm, rfl⟩
  obtain ⟨_, hw, _, _⟩ := wsliceWritesTheBytesThatFit rs1 n s
  obtain ⟨hp, _⟩ := padbWritesPaddedBytes rs1 n s
  obtain ⟨t, ht, htbytes, _, _, htout, _⟩ := hw h32.le h64
  obtain ⟨_, u, hu, hubytes, hupad, _, _, huout, _⟩ := hp h64
  refine ⟨t, u, ht, hu, fun a ha => ⟨htout a (by omega), hupad a ha⟩, fun a ha => ?_⟩
  obtain ⟨i, rfl⟩ : ∃ i, a = n - 32 + i := Nat.exists_eq_add_of_le (by omega)
  by_cases hi : i < 32
  · rw [htbytes i hi, hubytes _ (by omega), show n - 1 - (n - 32 + i) = 31 - i by omega]
  · rw [htout _ (by omega), huout _ (by omega)]

end Sys2Proof.Machine
end

section
/-! Addition and subtraction (41_addsub.md): the values the commands give, the word chains that compute them, and the
laws between the commands. -/

namespace Sys2Proof.Machine

/-! ### The values of the meanings (41_addsub.md R150 to R154) -/

theorem toNat_wrap (n : Nat) : (wrap n).toNat = n % 2 ^ 256 := BitVec.toNat_ofNat n 256

theorem toNat_addWrap (a b : U256) : (addWrap a b).toNat = (a.toNat + b.toNat) % 2 ^ 256 := toNat_wrap _

theorem carryOut_iff (a b : U256) : carryOut a b = true ↔ 2 ^ 256 ≤ a.toNat + b.toNat := decide_eq_true_iff

theorem borrowOut_iff (a b : U256) : borrowOut a b = true ↔ (a.toNat : Int) < b.toNat :=
  decide_eq_true_iff.trans Nat.cast_lt.symm

/-- The model adds 2^256 before it subtracts, so that its natural subtraction does not stop at 0. -/
theorem wrap_sub_eq_emod (a : U256) {n : Nat} (hn : n < 2 ^ 256) :
    ((wrap (a.toNat + 2 ^ 256 - n)).toNat : Int) = ((a.toNat : Int) - n) % 2 ^ 256 := by
  rw [toNat_wrap]
  omega

theorem toNat_subWrap (a b : U256) : ((subWrap a b).toNat : Int) = ((a.toNat : Int) - b.toNat) % 2 ^ 256 :=
  wrap_sub_eq_emod a b.isLt

theorem toNat_subScalar (a b : U256) :
    ((subScalar a b).toNat : Int) = ((a.toNat : Int) - (b.toNat : Int) % 2 ^ 64) % 2 ^ 256 := by
  have hw : (wordOf b 0).toNat < 2 ^ 256 := (wordOf b 0).isLt.trans (by decide)
  rw [subScalar, wrap_sub_eq_emod a hw, toNat_wordOf_zero]
  omega

/-! ### The results of the commands -/

/-- `result_of_setReg` for a value given as an integer. -/
theorem result_of_setReg_int {i : Instr} {s : State} {rd : Reg} {v : U256} {z : Int}
    (hx : exec i s = .next (s.setReg rd v)) (hv : (v.toNat : Int) = z) :
    ∃ t, exec i s = .next t ∧ ((t.reg rd).toNat : Int) = z ∧ WritesRegs [rd] s t := by
  obtain ⟨t, ht, hn, hframe⟩ := result_of_setReg hx rfl
  exact ⟨t, ht, by rw [hn, hv], hframe⟩

/-- `result_of_setReg_setC` for a value given as an integer. -/
theorem result_of_setReg_setC_int {i : Instr} {s : State} {rd : Reg} {v : U256} {b : Bool} {z : Int} {q : Prop}
    (hx : exec i s = .next ((s.setReg rd v).setC b)) (hv : (v.toNat : Int) = z) (hb : b = true ↔ q) :
    ∃ t, exec i s = .next t ∧ ((t.reg rd).toNat : Int) = z ∧ (t.c = true ↔ q) ∧ WritesRegsAndC [rd] s t := by
  obtain ⟨t, ht, hn, hc, hframe⟩ := result_of_setReg_setC hx rfl hb
  exact ⟨t, ht, by rw [hn, hv], hc, hframe⟩

/-- Settles O42: both write the wrapped sum, and ADDO's C is the carry out. -/
theorem additionResults : Obligations.AdditionResults := by
  intro rd rs1 rs2 s
  exact ⟨⟨decodeOfEncodeGivesBack (.add rd rs1 rs2) rfl, result_of_setReg rfl (toNat_addWrap _ _)⟩,
    decodeOfEncodeGivesBack (.addo rd rs1 rs2) rfl,
    result_of_setReg_setC rfl (toNat_addWrap _ _) (carryOut_iff _ _)⟩

/-- Settles O43: the first two write the wrapped difference, SUBO's C is the borrow out, and SUB64 subtracts word 0. -/
theorem subtractionResults : Obligations.SubtractionResults := by
  intro rd rs1 rs2 s
  exact ⟨⟨decodeOfEncodeGivesBack (.sub rd rs1 rs2) rfl, result_of_setReg_int rfl (toNat_subWrap _ _)⟩,
    ⟨decodeOfEncodeGivesBack (.subo rd rs1 rs2) rfl,
      result_of_setReg_setC_int rfl (toNat_subWrap _ _) (borrowOut_iff _ _)⟩,
    decodeOfEncodeGivesBack (.sub64 rd rs1 rs2) rfl, result_of_setReg_int rfl (toNat_subScalar _ _)⟩

/-! ### A value and its words (00_scope.md R13) -/

theorem wordsValue_wordsOf (a : U256) : wordsValue (wordsOf a) = a.toNat := by
  simp only [wordsValue, wordsOf, toNat_wordOf]
  omega

theorem toNat_ofWords (w0 w1 w2 w3 : Word) : (ofWords w0 w1 w2 w3).toNat = wordsValue [w0, w1, w2, w3] := by
  simp only [ofWords, wordsValue, BitVec.toNat_append]
  rw [← Nat.shiftLeft_add_eq_or_of_lt w0.isLt, ← Nat.shiftLeft_add_eq_or_of_lt w1.isLt,
    ← Nat.shiftLeft_add_eq_or_of_lt w2.isLt]
  simp only [Nat.shiftLeft_eq]
  omega

/-! ### The word chains (41_addsub.md R155)

Each position of a chain keeps an exact equation between its words and its carries. The four equations add up to the
same equation over the whole values, which determines the value and the last carry. -/

theorem toNat_decide (p : Prop) [Decidable p] : (decide p).toNat = if p then 1 else 0 := by
  by_cases h : p <;> simp [h]

/-- A position of the addition chain loses nothing: the sum word and the carry out hold the exact sum. -/
theorem addWord_exact (p q : Word) (cin : Bool) :
    (addWord p q cin).1.toNat + 2 ^ 64 * (addWord p q cin).2.toNat = p.toNat + q.toNat + cin.toNat := by
  have hc := cin.toNat_le
  simp only [addWord, BitVec.toNat_ofNat, toNat_decide]
  split <;> omega

/-- A position of the subtraction chain: the difference word, and 2^64 owed to it by the position above for a borrow. -/
theorem subWord_exact (p q : Word) (bin : Bool) :
    (subWord p q bin).1.toNat + q.toNat + bin.toNat = p.toNat + 2 ^ 64 * (subWord p q bin).2.toNat := by
  have hb := bin.toNat_le
  simp only [subWord, BitVec.toNat_ofInt, toNat_decide]
  split <;> omega

theorem addChain_exact (a b : U256) :
    (addChain a b).1.toNat + 2 ^ 256 * (addChain a b).2.toNat = a.toNat + b.toNat := by
  rw [← wordsValue_wordsOf a, ← wordsValue_wordsOf b]
  unfold addChain
  extract_lets r0 r1 r2 r3
  have h0 : r0.1.toNat + 2 ^ 64 * r0.2.toNat = _ := addWord_exact ..
  have h1 : r1.1.toNat + 2 ^ 64 * r1.2.toNat = _ := addWord_exact ..
  have h2 : r2.1.toNat + 2 ^ 64 * r2.2.toNat = _ := addWord_exact ..
  have h3 : r3.1.toNat + 2 ^ 64 * r3.2.toNat = _ := addWord_exact ..
  rw [Bool.toNat_false] at h0
  simp only [toNat_ofWords, wordsOf, wordsValue]
  omega

theorem subChain_exact (a b : U256) :
    (subChain a b).1.toNat + b.toNat = a.toNat + 2 ^ 256 * (subChain a b).2.toNat := by
  rw [← wordsValue_wordsOf a, ← wordsValue_wordsOf b]
  unfold subChain
  extract_lets r0 r1 r2 r3
  have h0 : r0.1.toNat + _ + _ = _ + 2 ^ 64 * r0.2.toNat := subWord_exact ..
  have h1 : r1.1.toNat + _ + _ = _ + 2 ^ 64 * r1.2.toNat := subWord_exact ..
  have h2 : r2.1.toNat + _ + _ = _ + 2 ^ 64 * r2.2.toNat := subWord_exact ..
  have h3 : r3.1.toNat + _ + _ = _ + 2 ^ 64 * r3.2.toNat := subWord_exact ..
  rw [Bool.toNat_false] at h0
  simp only [toNat_ofWords, wordsOf, wordsValue]
  omega

/-- A value and a carry above it are determined by the number they hold together. -/
theorem eq_of_value_carry {v w : U256} {c d : Bool}
    (h : v.toNat + 2 ^ 256 * c.toNat = w.toNat + 2 ^ 256 * d.toNat) : v = w ∧ c = d :=
  ⟨BitVec.eq_of_toNat_eq (by omega), Function.LeftInverse.injective Bool.ofNat_toNat (by omega)⟩

theorem addWrap_carryOut_exact (a b : U256) :
    (addWrap a b).toNat + 2 ^ 256 * (carryOut a b).toNat = a.toNat + b.toNat := by
  rw [toNat_addWrap, carryOut, toNat_decide]
  split <;> omega

theorem subWrap_borrowOut_exact (a b : U256) :
    (subWrap a b).toNat + b.toNat = a.toNat + 2 ^ 256 * (borrowOut a b).toNat := by
  have hd := toNat_subWrap a b
  rw [borrowOut, toNat_decide]
  split <;> omega

theorem addChain_eq (a b : U256) : addChain a b = (addWrap a b, carryOut a b) :=
  Prod.ext_iff.mpr (eq_of_value_carry ((addChain_exact a b).trans (addWrap_carryOut_exact a b).symm))

theorem subChain_eq (a b : U256) : subChain a b = (subWrap a b, borrowOut a b) := by
  have hchain := subChain_exact a b
  have hexact := subWrap_borrowOut_exact a b
  obtain ⟨hvalue, hborrow⟩ := eq_of_value_carry (v := (subChain a b).1) (c := borrowOut a b)
    (w := subWrap a b) (d := (subChain a b).2) (by omega)
  exact Prod.ext hvalue hborrow.symm

/-- SUB64 is SUB of word 0 with zeros above it. -/
theorem subWrap_wordOf_zero (a b : U256) : subWrap a ((wordOf b 0).setWidth 256) = subScalar a b := by
  rw [subWrap, BitVec.toNat_setWidth_of_le (by decide), subScalar]

/-- Settles O44: the chains and the meanings keep the same exact equations. -/
theorem wordChainsGiveExactResults : Obligations.WordChainsGiveExactResults := by
  intro a b
  refine ⟨addChain_eq a b, subChain_eq a b, ?_⟩
  rw [subChain_eq]
  exact subWrap_wordOf_zero a b

/-! ### The laws between the commands (41_addsub.md R157) -/

theorem subWrap_addWrap (a b : U256) : subWrap (addWrap a b) b = a := by
  apply BitVec.eq_of_toNat_eq
  have hd := toNat_subWrap (addWrap a b) b
  rw [toNat_addWrap] at hd
  omega

theorem borrowOut_eq_unsignedLt (a b : U256) : borrowOut a b = unsignedLt a b := rfl

/-- Settles O45: SUB finds the sum in `t` and b where it was, and SUBO and LT make the same comparison. -/
theorem addThenSubGivesBack : Obligations.AddThenSubGivesBack := by
  intro rt ra rb rr s
  constructor
  · intro h
    refine ⟨_, _, rfl, rfl, ?_⟩
    rw [State.reg_setReg_same, State.reg_setReg_same, s.reg_setReg_of_ne _ h.symm, subWrap_addWrap]
  · exact ⟨_, _, rfl, rfl, borrowOut_eq_unsignedLt (s.reg ra) (s.reg rb)⟩

end Sys2Proof.Machine
end

section
/-! Multiplication (42_multiply.md): the values of MUL and SQR, the schoolbook product that computes them word by word,
and the laws of MUL and ADD. -/

namespace Sys2Proof.Machine

/-! ### The results of the commands (42_multiply.md R166, R167) -/

theorem toNat_mulWrap (a b : U256) : (mulWrap a b).toNat = a.toNat * b.toNat % 2 ^ 256 := toNat_wrap _

/-- Settles O46: both write the wrapped product of their sources. -/
theorem multiplicationResults : Obligations.MultiplicationResults := by
  intro rd rs1 rs2 s
  exact ⟨⟨decodeOfEncodeGivesBack (.mul rd rs1 rs2) rfl, result_of_setReg rfl (toNat_mulWrap _ _)⟩,
    decodeOfEncodeGivesBack (.sqr rd rs1) rfl, result_of_setReg rfl (toNat_mulWrap _ _)⟩

/-! ### The schoolbook product (42_multiply.md R165, R168)

Each position of a row keeps an exact equation between its words and its carries; so a row is exact once its last carry
stands above its words, and the rows add up to the whole product. -/

/-- The largest sum, `(2^64 - 1)^2 + 2 (2^64 - 1)`, is `2^128 - 1`: it fits two words (42_multiply.md R165). -/
theorem mul_add_add_lt (p q u c : Word) : p.toNat * q.toNat + u.toNat + c.toNat < 2 ^ 64 * 2 ^ 64 := by
  have hp : p.toNat ≤ 2 ^ 64 - 1 := Nat.le_pred_of_lt p.isLt
  have hq : q.toNat ≤ 2 ^ 64 - 1 := Nat.le_pred_of_lt q.isLt
  have hpq := Nat.mul_le_mul hp hq
  omega

theorem mac_exact (p q u c : Word) :
    (mac p q u c).1.toNat * 2 ^ 64 + (mac p q u c).2.toNat = p.toNat * q.toNat + u.toNat + c.toNat := by
  have hhigh := Nat.div_lt_of_lt_mul (mul_add_add_lt p q u c)
  simp only [mac, BitVec.toNat_ofNat, Nat.mod_mod, Nat.mod_eq_of_lt hhigh]
  exact Nat.div_add_mod' ..

theorem length_macRow {a r : List Word} (h : a.length = r.length) (q c : Word) :
    (macRow a q r c).1.length = a.length := by
  induction a generalizing r c with
  | nil => rfl
  | cons p ps ih =>
    cases r with
    | nil => cases h
    | cons u us => exact congrArg Nat.succ (ih (Nat.succ.inj h) _)

/-- A row with its last carry above it holds the words of `a` times `q`, the window and the carry in. -/
theorem macRow_exact {a r : List Word} (h : a.length = r.length) (q c : Word) :
    wordsValue ((macRow a q r c).1 ++ [(macRow a q r c).2]) = wordsValue a * q.toNat + wordsValue r + c.toNat := by
  induction a generalizing r c with
  | nil =>
    obtain rfl := List.length_eq_zero_iff.mp h.symm
    simp [macRow, wordsValue]
  | cons p ps ih =>
    cases r with
    | nil => cases h
    | cons u us =>
      have hmac := mac_exact p q u c
      simp only [macRow, List.cons_append, wordsValue, ih (Nat.succ.inj h)]
      linarith

/-- A row over at least one word fixes the lowest word of the rest of the product, and its other words with its last
carry are the next window. -/
theorem schoolbook_cons {a r hi : List Word} {q lo : Word} (h : (macRow a q r 0#64).1 = lo :: hi) (qs : List Word) :
    schoolbook a (q :: qs) r = lo :: schoolbook a qs (hi ++ [(macRow a q r 0#64).2]) := by
  simp only [schoolbook, h]

/-- A window of the length of `a` gives way to one of the same length, and each row leaves one word behind. -/
theorem schoolbook_exact {a : List Word} (ha : a ≠ []) (b : List Word) {r : List Word} (h : a.length = r.length) :
    (schoolbook a b r).length = b.length + a.length ∧
      wordsValue (schoolbook a b r) = wordsValue a * wordsValue b + wordsValue r := by
  induction b generalizing r with
  | nil => simp [schoolbook, wordsValue, h]
  | cons q qs ih =>
    have hlength := length_macRow h q 0#64
    have hrow := macRow_exact h q 0#64
    cases hwords : (macRow a q r 0#64).1 with
    | nil => exact absurd (List.length_eq_zero_iff.mp (by rw [← hlength, hwords]; rfl)) ha
    | cons lo hi =>
      rw [hwords] at hlength hrow
      obtain ⟨hlen, hvalue⟩ := ih (r := hi ++ [(macRow a q r 0#64).2]) (by simpa using hlength.symm)
      rw [schoolbook_cons hwords]
      simp only [List.cons_append, wordsValue, BitVec.toNat_ofNat, Nat.zero_mod] at hrow
      constructor
      · rw [List.length_cons, List.length_cons, hlen, Nat.add_right_comm]
      · rw [wordsValue, wordsValue, hvalue]
        linarith

theorem umulWords_exact (a b : U256) :
    (umulWords a b).length = 8 ∧ wordsValue (umulWords a b) = a.toNat * b.toNat := by
  obtain ⟨hlength, hvalue⟩ := schoolbook_exact (a := wordsOf a) (List.cons_ne_nil _ _) (wordsOf b)
    (r := [0#64, 0#64, 0#64, 0#64]) rfl
  rw [wordsValue_wordsOf, wordsValue_wordsOf] at hvalue
  exact ⟨hlength, hvalue⟩

/-- Settles O47: the primitive holds any sum R165 gives it, and the four rows add up to the product. -/
theorem schoolbookProductIsExact : Obligations.SchoolbookProductIsExact :=
  ⟨mac_exact, umulWords_exact⟩

/-! ### The laws of MUL (42_multiply.md R171) -/

/-- The meaning of MUL is the product of the ring of 256-bit values. -/
theorem mulWrap_eq_mul (a b : U256) : mulWrap a b = a * b :=
  BitVec.eq_of_toNat_eq ((toNat_mulWrap a b).trans (BitVec.toNat_mul a b).symm)

/-- The meaning of ADD is the sum of the ring of 256-bit values. -/
theorem addWrap_eq_add (a b : U256) : addWrap a b = a + b :=
  BitVec.eq_of_toNat_eq ((toNat_addWrap a b).trans (BitVec.toNat_add a b).symm)

theorem mulWrap_comm (a b : U256) : mulWrap a b = mulWrap b a := by
  rw [mulWrap_eq_mul, mulWrap_eq_mul, BitVec.mul_comm]

/-- The sources of MUL can be exchanged in the command: only the order of the factors changes. -/
theorem exec_mul_comm (rd rs1 rs2 : Reg) (s : State) : exec (.mul rd rs1 rs2) s = exec (.mul rd rs2 rs1) s :=
  congrArg (fun v => (.next (s.setReg rd v) : Result)) (mulWrap_comm (s.reg rs1) (s.reg rs2))

/-- Settles O48: the register holds the low words of the schoolbook product, and the laws are those of the ring. -/
theorem multiplicationLaws : Obligations.MultiplicationLaws := by
  refine ⟨fun rd rs1 rs2 s => ⟨⟨_, rfl, ?_⟩, exec_mul_comm rd rs1 rs2 s, rfl⟩, fun a b c => ⟨?_, ?_⟩⟩
  · obtain ⟨_, hproduct⟩ := umulWords_exact (s.reg rs1) (s.reg rs2)
    rw [State.reg_setReg_same, toNat_mulWrap, hproduct]
  · simp only [mulWrap_eq_mul, BitVec.mul_assoc]
  · simp only [mulWrap_eq_mul, addWrap_eq_add, BitVec.mul_add]

end Sys2Proof.Machine
end

section
/-! Division (43_divide.md): the values of DIV and MOD, and the identity between them. -/

namespace Sys2Proof.Machine

/-! ### The results of the commands (43_divide.md R176, R177) -/

/-- Division never overflows: the model's reduction modulo 2^256 keeps the quotient. -/
theorem toNat_quotient (a b : U256) :
    (quotient a b).toNat = if b.toNat = 0 then 0 else a.toNat / b.toNat := by
  rw [quotient, toNat_wrap, divrem]
  split
  · rfl
  · exact Nat.mod_eq_of_lt ((Nat.div_le_self _ _).trans_lt a.isLt)

/-- The remainder is at most the dividend, so the model's reduction modulo 2^256 keeps it. -/
theorem toNat_remainder (a b : U256) :
    (remainder a b).toNat = if b.toNat = 0 then 0 else a.toNat % b.toNat := by
  rw [remainder, toNat_wrap, divrem]
  split
  · rfl
  · exact Nat.mod_eq_of_lt ((Nat.mod_le _ _).trans_lt a.isLt)

/-- Settles O49: DIV writes the quotient and MOD the remainder, both 0 for a zero divisor. -/
theorem divisionResults : Obligations.DivisionResults := by
  intro rd rs1 rs2 s
  exact ⟨⟨decodeOfEncodeGivesBack (.div rd rs1 rs2) rfl, result_of_setReg rfl (toNat_quotient _ _)⟩,
    decodeOfEncodeGivesBack (.mod rd rs1 rs2) rfl, result_of_setReg rfl (toNat_remainder _ _)⟩

/-! ### The division identity (43_divide.md R182) -/

/-- The exact quotient and remainder make up a dividend below 2^256, so nothing is lost in the wrapping sum. -/
theorem quotient_mul_add_remainder (a : U256) {b : U256} (hb : b.toNat ≠ 0) :
    quotient a b * b + remainder a b = a := by
  apply BitVec.eq_of_toNat_eq
  rw [BitVec.toNat_add, BitVec.toNat_mul, Nat.mod_add_mod, toNat_quotient, toNat_remainder, if_neg hb, if_neg hb,
    Nat.div_add_mod', Nat.mod_eq_of_lt a.isLt]

theorem toNat_remainder_lt (a : U256) {b : U256} (hb : b.toNat ≠ 0) : (remainder a b).toNat < b.toNat := by
  rw [toNat_remainder, if_neg hb]
  exact Nat.mod_lt _ (Nat.pos_of_ne_zero hb)

theorem quotient_by_zero (a : U256) : quotient a 0#256 = 0#256 := rfl

theorem remainder_by_zero (a : U256) : remainder a 0#256 = 0#256 := rfl

/-- Settles O50: each command leaves its value in its own rd, and the two values satisfy the law of the divisor's
case. -/
theorem divisionIdentity : Obligations.DivisionIdentity := by
  intro rq rr rs1 rs2 s
  refine ⟨_, _, rfl, rfl, fun hne => ?_, fun hzero => ?_⟩ <;> rw [State.reg_setReg_same, State.reg_setReg_same]
  · have hb : (s.reg rs2).toNat ≠ 0 := fun h => hne (BitVec.eq_of_toNat_eq h)
    exact ⟨quotient_mul_add_remainder _ hb, toNat_remainder_lt _ hb⟩
  · rw [hzero]
    exact ⟨quotient_by_zero _, remainder_by_zero _⟩

end Sys2Proof.Machine
end

section
/-! Modular reduction and signed division (44_modular.md): the values of ADDMOD, MULMOD, SDIV and SMOD, the write-back of
SDIV and SMOD, and the identity between them. -/

namespace Sys2Proof.Machine

/-! ### ADDMOD and MULMOD (44_modular.md R195 to R197) -/

/-- However wide the numerator, its remainder by a 256-bit modulus is below 2^256, so the model's reduction keeps it. -/
theorem toNat_wrap_divrem_remainder (n : Nat) (m : U256) :
    (wrap (divrem n m.toNat).2).toNat = if m.toNat = 0 then 0 else n % m.toNat := by
  rw [toNat_wrap, divrem]
  split
  next => rfl
  next hm => exact Nat.mod_eq_of_lt ((Nat.mod_lt _ (Nat.pos_of_ne_zero hm)).trans m.isLt)

theorem toNat_addModulo (a b m : U256) :
    (addModulo a b m).toNat = if m.toNat = 0 then 0 else (a.toNat + b.toNat) % m.toNat :=
  toNat_wrap_divrem_remainder _ m

theorem toNat_mulModulo (a b m : U256) :
    (mulModulo a b m).toNat = if m.toNat = 0 then 0 else a.toNat * b.toNat % m.toNat :=
  toNat_wrap_divrem_remainder _ m

/-- Settles O51: each is one write of rd, with a value taken from the registers before it. -/
theorem modularResults : Obligations.ModularResults := by
  intro rd rs1 rs2 rs3 s
  exact ⟨⟨decodeOfEncodeGivesBack (.addmod rd rs1 rs2 rs3) rfl, result_of_setReg rfl (toNat_addModulo _ _ _)⟩,
    decodeOfEncodeGivesBack (.mulmod rd rs1 rs2 rs3) rfl, result_of_setReg rfl (toNat_mulModulo _ _ _)⟩

/-! ### Sign and negation of a value (00_scope.md R14) -/

theorem isneg_eq_msb (v : U256) : isneg v = v.msb := v.msb_eq_getLsbD_last.symm

theorem isneg_iff (v : U256) : isneg v = true ↔ 2 ^ 255 ≤ v.toNat := by
  rw [isneg_eq_msb, BitVec.msb_eq_decide, decide_eq_true_iff]

theorem negWrap_eq_neg (v : U256) : negWrap v = -v :=
  BitVec.eq_of_toNat_eq ((toNat_wrap _).trans (BitVec.toNat_neg v).symm)

theorem magnitude_zero : magnitude 0#256 = 0#256 := by
  rw [magnitude, negWrap_eq_neg, BitVec.neg_zero, ite_self]

theorem magnitude_ne_zero {v : U256} (h : v ≠ 0#256) : magnitude v ≠ 0#256 := by
  rw [magnitude, negWrap_eq_neg]
  split
  · exact mt BitVec.neg_eq_zero_iff.mp h
  · exact h

/-! ### The values of SDIV and SMOD (44_modular.md R198, R199)

On the magnitudes the engine divides as `BitVec` does, and the signs put on its results are those of `BitVec.sdiv` and
`BitVec.srem`, whose integer readings the library gives. Only the remainder by zero differs: R199 makes it 0. -/

theorem quotient_eq_udiv (a b : U256) : quotient a b = a / b := by
  apply BitVec.eq_of_toNat_eq
  rw [toNat_quotient, BitVec.toNat_udiv]
  split
  next hb => rw [hb, Nat.div_zero]
  next => rfl

theorem remainder_eq_umod (a : U256) {b : U256} (hb : b ≠ 0#256) : remainder a b = a % b := by
  have hb' : b.toNat ≠ 0 := fun h => hb (BitVec.eq_of_toNat_eq h)
  apply BitVec.eq_of_toNat_eq
  rw [toNat_remainder, BitVec.toNat_umod, if_neg hb']

theorem signedQuotient_eq_sdiv (a b : U256) : signedQuotient a b = a.sdiv b := by
  simp only [signedQuotient, magnitude, quotient_eq_udiv, isneg_eq_msb, negWrap_eq_neg, BitVec.sdiv_eq]
  cases a.msb <;> cases b.msb <;> simp

theorem signedRemainder_eq_srem (a : U256) {b : U256} (hb : b ≠ 0#256) : signedRemainder a b = a.srem b := by
  simp only [signedRemainder, remainder_eq_umod _ (magnitude_ne_zero hb)]
  simp only [magnitude, isneg_eq_msb, negWrap_eq_neg, BitVec.srem_eq]
  cases a.msb <;> cases b.msb <;> simp

theorem signedRemainder_by_zero (a : U256) : signedRemainder a 0#256 = 0#256 := by
  rw [signedRemainder, magnitude_zero, remainder_by_zero, negWrap_eq_neg, BitVec.neg_zero, ite_self]

/-- The quotient truncated toward zero; SignedMin by -1 is the one pair where the encoding wraps (44_modular.md R198). -/
theorem signedQuotient_eq_ofInt_tdiv (a b : U256) : signedQuotient a b = BitVec.ofInt 256 (a.toInt.tdiv b.toInt) := by
  apply BitVec.eq_of_toInt_eq
  rw [signedQuotient_eq_sdiv, BitVec.toInt_sdiv, BitVec.toInt_ofInt]

/-- The remainder with the dividend's sign (44_modular.md R199). -/
theorem signedRemainder_eq_ofInt_tmod (a : U256) {b : U256} (hb : b ≠ 0#256) :
    signedRemainder a b = BitVec.ofInt 256 (a.toInt.tmod b.toInt) := by
  rw [signedRemainder_eq_srem a hb, ← BitVec.toInt_srem, BitVec.ofInt_toInt]

theorem signedRemainder_eq_ite (a b : U256) :
    signedRemainder a b = if b = 0#256 then 0#256 else BitVec.ofInt 256 (a.toInt.tmod b.toInt) := by
  split
  next hb => rw [hb, signedRemainder_by_zero]
  next hb => exact signedRemainder_eq_ofInt_tmod a hb

/-! ### The write-back (44_modular.md R200) -/

/-- From the values before the command, the two write-backs of one register agree, so their order does not show. -/
theorem reg_writeBack_sources (rs1 rs2 r : Reg) (s : State) :
    (writeBack rs1 rs2 (s.reg rs1) (s.reg rs2) s).reg r =
      if (r = rs1 ∨ r = rs2) ∧ 2 ^ 255 ≤ (s.reg r).toNat then -(s.reg r) else s.reg r := by
  simp only [reg_writeBack, isneg_iff, negWrap_eq_neg]
  obtain rfl | h2 := eq_or_ne r rs2 <;> obtain rfl | h1 := eq_or_ne r rs1
  · simp only [true_and, or_self]
    split_ifs <;> rfl
  · simp [h1]
  · simp [h2]
  · simp [h1, h2]

/-- SDIV and SMOD leave their value in rd, whatever rd is, and the write-back in the other registers; nothing else
changes. -/
theorem result_of_signedDivForm {i : Instr} {f : U256 → U256 → U256} {rd rs1 rs2 : Reg} {s : State} {v : U256}
    (hx : exec i s = signedDivForm f rd rs1 rs2 s) (hv : f (s.reg rs1) (s.reg rs2) = v) :
    ∃ t, exec i s = .next t ∧ t.reg rd = v ∧ WrittenBack rd rs1 rs2 s t ∧ t.c = s.c ∧ KeepsDbuf s t ∧
      KeepsStatus s t ∧ KeepsEnvironment s t := by
  refine ⟨_, hx, by rw [State.reg_setReg_same, hv], fun r hr => ?_, ?_⟩
  · rw [State.reg_setReg_of_ne _ _ hr, reg_writeBack_sources]
  · rw [writeBack_eq]
    exact ⟨rfl, fun _ => rfl, ⟨rfl, rfl, rfl, rfl⟩, rfl, rfl, rfl, rfl, rfl, rfl⟩

/-- Settles O52: SDIV and SMOD differ only in the value they write last. -/
theorem signedDivisionResults : Obligations.SignedDivisionResults := by
  intro rd rs1 rs2 s
  exact ⟨⟨decodeOfEncodeGivesBack (.sdiv rd rs1 rs2) rfl,
      result_of_signedDivForm rfl (signedQuotient_eq_ofInt_tdiv _ _)⟩,
    decodeOfEncodeGivesBack (.smod rd rs1 rs2) rfl, result_of_signedDivForm rfl (signedRemainder_eq_ite _ _)⟩

/-! ### The identity of signed division (44_modular.md R203) -/

/-- Encoding is a ring homomorphism, so the identity of truncated division carries over from the integers, also where
the quotient wraps. -/
theorem signedQuotient_mul_add_signedRemainder (a : U256) {b : U256} (hb : b ≠ 0#256) :
    signedQuotient a b * b + signedRemainder a b = a := by
  calc signedQuotient a b * b + signedRemainder a b
    _ = BitVec.ofInt 256 (a.toInt.tdiv b.toInt) * BitVec.ofInt 256 b.toInt
          + BitVec.ofInt 256 (a.toInt.tmod b.toInt) := by
      rw [signedQuotient_eq_ofInt_tdiv, signedRemainder_eq_ofInt_tmod a hb, BitVec.ofInt_toInt]
    _ = BitVec.ofInt 256 (a.toInt.tdiv b.toInt * b.toInt + a.toInt.tmod b.toInt) := by
      rw [BitVec.ofInt_add, BitVec.ofInt_mul]
    _ = a := by rw [Int.tdiv_mul_add_tmod, BitVec.ofInt_toInt]

/-- Settles O53: each command leaves its value in its own rd, written after the write-back. -/
theorem signedDivisionIdentity : Obligations.SignedDivisionIdentity := by
  intro rq rr rs1 rs2 s hb
  refine ⟨_, _, rfl, rfl, ?_⟩
  rw [State.reg_setReg_same, State.reg_setReg_same]
  exact signedQuotient_mul_add_signedRemainder _ hb

end Sys2Proof.Machine
end

section
/-! Shifts (45_shift.md): the values of LSH, RSH and SRSH for every 256-bit amount, and LSH undone by RSH. -/

namespace Sys2Proof.Machine

/-! ### The logical shifts (45_shift.md R211, R212) -/

theorem toNat_shiftLeft (a n : U256) :
    (shiftLeft a n).toNat = if 256 ≤ n.toNat then 0 else a.toNat * 2 ^ n.toNat % 2 ^ 256 := by
  rw [shiftLeft]
  split
  · rfl
  · exact toNat_wrap _

/-- A right shift only makes the value smaller, so the model's reduction modulo 2^256 keeps it. -/
theorem toNat_shiftRight (a n : U256) :
    (shiftRight a n).toNat = if 256 ≤ n.toNat then 0 else a.toNat / 2 ^ n.toNat := by
  rw [shiftRight]
  split
  · rfl
  · rw [toNat_wrap, Nat.mod_eq_of_lt ((Nat.div_le_self _ _).trans_lt a.isLt)]

theorem shiftLeft_of_le (a : U256) {n : U256} (h : 256 ≤ n.toNat) : shiftLeft a n = 0#256 := if_pos h

theorem shiftRight_of_le (a : U256) {n : U256} (h : 256 ≤ n.toNat) : shiftRight a n = 0#256 := if_pos h

/-! ### The arithmetic shift (45_shift.md R213)

Every amount of 256 or more gives what an amount of 256 gives, so both shifts to the right are a division by
`2 ^ min n 256`. A negative value is its unsigned reading less 2^256, whose quotient is exact. -/

theorem shiftRight_eq_wrap (a n : U256) : shiftRight a n = wrap (a.toNat / 2 ^ min n.toNat 256) := by
  rw [shiftRight]
  split
  next h => rw [Nat.min_eq_right h, Nat.div_eq_of_lt a.isLt, wrap]
  next h => rw [Nat.min_eq_left (by omega)]

theorem shiftRightSigned_of_not_isneg {a : U256} (h : isneg a = false) (n : U256) :
    shiftRightSigned a n = shiftRight a n := by
  rw [shiftRightSigned, h, Bool.not_false, if_pos rfl]

/-- The vacated positions of a negative value are filled with ones, all 256 of them from an amount of 256 on. -/
theorem shiftRightSigned_of_isneg {a : U256} (h : isneg a = true) (n : U256) :
    shiftRightSigned a n =
      wrap (a.toNat / 2 ^ min n.toNat 256 + (2 ^ 256 - 2 ^ (256 - min n.toNat 256))) := by
  rw [shiftRightSigned, h, Bool.not_true, if_neg Bool.false_ne_true]
  split
  next hn => rw [Nat.min_eq_right hn, Nat.div_eq_of_lt a.isLt, Nat.zero_add, Nat.sub_self, Nat.pow_zero]
  next hn => rw [Nat.min_eq_left (by omega)]

theorem wrap_eq_ofInt (m : Nat) : wrap m = BitVec.ofInt 256 m := (BitVec.ofInt_natCast 256 m).symm

/-- Adding `2^256 - p` before the reduction is subtracting `p`. -/
theorem wrap_add_two_pow_sub (m : Nat) {p : Nat} (hp : p ≤ 2 ^ 256) :
    wrap (m + (2 ^ 256 - p)) = BitVec.ofInt 256 ((m : Int) - p) := by
  have hcast : ((m + (2 ^ 256 - p) : Nat) : Int) = (m - p : Int) + 2 ^ 256 := by omega
  rw [wrap_eq_ofInt, hcast, BitVec.ofInt_add]
  exact BitVec.add_zero _

theorem sub_two_pow_256_ediv (x : Int) {k : Nat} (hk : k ≤ 256) :
    (x - 2 ^ 256) / 2 ^ k = x / 2 ^ k - 2 ^ (256 - k) := by
  rw [← pow_sub_mul_pow 2 hk, Int.sub_mul_ediv_right _ _ (by positivity)]

/-- `Int` division by a positive number rounds toward minus infinity, as R213 asks. -/
theorem shiftRightSigned_eq_ofInt_ediv (a n : U256) :
    shiftRightSigned a n = BitVec.ofInt 256 (a.toInt / 2 ^ min n.toNat 256) := by
  cases h : isneg a with
  | false =>
    have hmsb : a.msb = false := by rw [← isneg_eq_msb, h]
    rw [shiftRightSigned_of_not_isneg h, shiftRight_eq_wrap, wrap_eq_ofInt, BitVec.toInt_eq_toNat_of_msb hmsb]
    push_cast
    rfl
  | true =>
    have hint : a.toInt = (a.toNat : Int) - 2 ^ 256 := by
      rw [BitVec.toInt_eq_msb_cond, ← isneg_eq_msb, if_pos h]
      rfl
    have hp : 2 ^ (256 - min n.toNat 256) ≤ 2 ^ 256 := Nat.pow_le_pow_right (by decide) (Nat.sub_le _ _)
    rw [shiftRightSigned_of_isneg h, wrap_add_two_pow_sub _ hp, hint, sub_two_pow_256_ediv _ (Nat.min_le_right _ _)]
    push_cast
    rfl

/-- Settles O54: each is one write of rd, with the value the whole amount gives. -/
theorem shiftResults : Obligations.ShiftResults := by
  intro rd rs1 rs2 s
  exact ⟨⟨decodeOfEncodeGivesBack (.lsh rd rs1 rs2) rfl, result_of_setReg rfl (toNat_shiftLeft _ _)⟩,
    ⟨decodeOfEncodeGivesBack (.rsh rd rs1 rs2) rfl, result_of_setReg rfl (toNat_shiftRight _ _)⟩,
    decodeOfEncodeGivesBack (.srsh rd rs1 rs2) rfl, _, rfl,
    (s.reg_setReg_same rd _).trans (shiftRightSigned_eq_ofInt_ediv _ _), writesRegs_setReg s rd _⟩

/-! ### A left shift undone by a right shift (45_shift.md R215) -/

/-- The reduction of the left shift cuts off the high `n` bits, and the right shift brings the others back. -/
theorem toNat_shiftRight_shiftLeft (a : U256) {n : U256} (h : n.toNat < 256) :
    (shiftRight (shiftLeft a n) n).toNat = a.toNat % 2 ^ (256 - n.toNat) := by
  rw [toNat_shiftRight, toNat_shiftLeft, if_neg (Nat.not_le.mpr h), if_neg (Nat.not_le.mpr h),
    ← pow_mul_pow_sub 2 h.le, Nat.mod_mul_right_div_self, Nat.mul_div_cancel _ (Nat.two_pow_pos _)]

theorem shiftRight_shiftLeft_eq_self_iff (a : U256) {n : U256} (h : n.toNat < 256) :
    shiftRight (shiftLeft a n) n = a ↔ a.toNat < 2 ^ (256 - n.toNat) := by
  rw [← BitVec.toNat_inj, toNat_shiftRight_shiftLeft a h, Nat.mod_eq_iff_lt (Nat.two_pow_pos _).ne']

theorem shiftLeft_zero (a : U256) : shiftLeft a 0#256 = a := by
  apply BitVec.eq_of_toNat_eq
  rw [toNat_shiftLeft, BitVec.toNat_zero, if_neg (by decide), Nat.pow_zero, Nat.mul_one, Nat.mod_eq_of_lt a.isLt]

theorem shiftRight_zero (a : U256) : shiftRight a 0#256 = a := by
  apply BitVec.eq_of_toNat_eq
  rw [toNat_shiftRight, BitVec.toNat_zero, if_neg (by decide), Nat.pow_zero, Nat.div_one]

/-- Settles O55: RSH finds the shifted value in `t` and the amount where it was, and the laws are those of the two
values. -/
theorem shiftInverse : Obligations.ShiftInverse := by
  intro rt rr ra rn s h
  refine ⟨_, _, rfl, rfl, ?_⟩
  rw [State.reg_setReg_same, State.reg_setReg_same, s.reg_setReg_of_ne _ h.symm]
  refine ⟨fun hn => ⟨toNat_shiftRight_shiftLeft _ hn, shiftRight_shiftLeft_eq_self_iff _ hn⟩,
    fun hn => ⟨shiftLeft_of_le _ hn, shiftRight_of_le _ hn⟩, fun hn => ?_⟩
  rw [hn]
  exact ⟨shiftLeft_zero _, shiftRight_zero _⟩

end Sys2Proof.Machine
end

section
/-! Comparisons (46_compare.md): the truth values of LT, GT, SLT and SGT, and the value of CMP. -/

namespace Sys2Proof.Machine

/-! ### The predicates of two sources (46_compare.md R220 to R223) -/

/-- The model's signed reading is the two's-complement one (00_scope.md R14). -/
theorem signedOf_eq_toInt (v : U256) : signedOf v = v.toInt := by
  rw [signedOf, BitVec.toInt_eq_msb_cond, BitVec.msb_eq_decide]
  by_cases h : v.toNat < 2 ^ 255
  · rw [if_pos h, decide_eq_false (Nat.not_le.mpr h), if_neg Bool.false_ne_true]
  · rw [if_neg h, decide_eq_true (Nat.not_lt.mp h), if_pos rfl]
    rfl

theorem signedLt_eq_decide (a b : U256) : signedLt a b = decide (a.toInt < b.toInt) := by
  rw [signedLt, signedOf_eq_toInt, signedOf_eq_toInt]

theorem signedGt_eq_decide (a b : U256) : signedGt a b = decide (b.toInt < a.toInt) :=
  signedLt_eq_decide b a

theorem b2v_decide (q : Prop) [Decidable q] : b2v (decide q) = if q then 1#256 else 0#256 := by
  simp only [b2v, decide_eq_true_eq]

/-- A predicate of two sources leaves its truth value in C and in rd. -/
theorem result_of_binaryPredicate {i : Instr} {p : U256 → U256 → Bool} {rd rs1 rs2 : Reg} {s : State} {q : Prop}
    [Decidable q] (hx : exec i s = binaryPredicate p rd rs1 rs2 s) (h : p (s.reg rs1) (s.reg rs2) = decide q) :
    ∃ t, exec i s = .next t ∧ t.c = decide q ∧ t.reg rd = (if q then 1#256 else 0#256) ∧
      WritesRegsAndC [rd] s t := by
  refine ⟨_, hx, h, ?_, writesRegsAndC_setReg_setC s rd _ _⟩
  rw [State.reg_setC, State.reg_setReg_same]
  exact (congrArg b2v h).trans (b2v_decide q)

/-- Settles O56: the unsigned pair compares the values themselves, the signed pair their two's-complement readings. -/
theorem comparisonResults : Obligations.ComparisonResults := by
  intro rd rs1 rs2 s
  exact ⟨⟨decodeOfEncodeGivesBack (.lt rd rs1 rs2) rfl, result_of_binaryPredicate rfl rfl⟩,
    ⟨decodeOfEncodeGivesBack (.gt rd rs1 rs2) rfl, result_of_binaryPredicate rfl rfl⟩,
    ⟨decodeOfEncodeGivesBack (.slt rd rs1 rs2) rfl, result_of_binaryPredicate rfl (signedLt_eq_decide _ _)⟩,
    decodeOfEncodeGivesBack (.sgt rd rs1 rs2) rfl, result_of_binaryPredicate rfl (signedGt_eq_decide _ _)⟩

/-! ### The three-way comparison (46_compare.md R224) -/

theorem toNat_enc_neg_one : (enc (-1)).toNat = 2 ^ 256 - 1 := rfl

theorem toNat_enc_zero : (enc 0).toNat = 0 := rfl

theorem toNat_enc_one : (enc 1).toNat = 1 := rfl

theorem toNat_threeWay (a b : U256) :
    (threeWay a b).toNat =
      if a.toNat < b.toNat then 2 ^ 256 - 1 else if b.toNat < a.toNat then 1 else 0 := by
  simp only [threeWay, unsignedLt, unsignedGt, decide_eq_true_eq, apply_ite BitVec.toNat, toNat_enc_neg_one,
    toNat_enc_one, toNat_enc_zero]

/-- Settles O57: CMP is one write of rd, with the three-way value of the two sources. -/
theorem threeWayCompareResult : Obligations.ThreeWayCompareResult := by
  intro rd rs1 rs2 s
  exact ⟨decodeOfEncodeGivesBack (.cmp rd rs1 rs2) rfl, result_of_setReg rfl (toNat_threeWay _ _)⟩

end Sys2Proof.Machine
end

section
/-! The sign unit (47_sign.md): the values of SIGN, ABS and NEG, and the laws between them. -/

namespace Sys2Proof.Machine

/-! ### The values of the commands (47_sign.md R231 to R233) -/

theorem magnitude_of_isneg {a : U256} (h : isneg a = true) : magnitude a = negWrap a := if_pos h

theorem magnitude_of_not_isneg {a : U256} (h : ¬ isneg a = true) : magnitude a = a := if_neg h

theorem toNat_negWrap (a : U256) : (negWrap a).toNat = (2 ^ 256 - a.toNat) % 2 ^ 256 := toNat_wrap _

theorem toNat_signValue (a : U256) :
    (signValue a).toNat = if a.toNat = 0 then 0 else if a.toNat < 2 ^ 255 then 1 else 2 ^ 256 - 1 := by
  simp only [signValue, apply_ite BitVec.toNat, toNat_enc_neg_one, toNat_enc_one, toNat_enc_zero]

/-- A negative value is not 0, so its negation needs no reduction; that of SignedMin is SignedMin (47_sign.md R232). -/
theorem toNat_magnitude (a : U256) :
    (magnitude a).toNat = if a.toNat < 2 ^ 255 then a.toNat else 2 ^ 256 - a.toNat := by
  split
  next h => rw [magnitude_of_not_isneg (mt (isneg_iff a).mp (Nat.not_le.mpr h))]
  next h =>
    rw [magnitude_of_isneg ((isneg_iff a).mpr (Nat.not_lt.mp h)), toNat_negWrap]
    exact Nat.mod_eq_of_lt (by omega)

/-- Settles O58: each is one write of rd, with the value the unit gives. -/
theorem signUnitResults : Obligations.SignUnitResults := by
  intro rd rs1 s
  exact ⟨⟨decodeOfEncodeGivesBack (.sign rd rs1) rfl, result_of_setReg rfl (toNat_signValue _)⟩,
    ⟨decodeOfEncodeGivesBack (.abs rd rs1) rfl, result_of_setReg rfl (toNat_magnitude _)⟩,
    decodeOfEncodeGivesBack (.neg rd rs1) rfl, result_of_setReg rfl (toNat_negWrap _)⟩

/-! ### The laws between the commands (47_sign.md R234) -/

theorem negWrap_negWrap (a : U256) : negWrap (negWrap a) = a := by
  rw [negWrap_eq_neg, negWrap_eq_neg, BitVec.neg_neg]

theorem addWrap_negWrap (a : U256) : addWrap a (negWrap a) = 0#256 := by
  rw [addWrap_eq_add, negWrap_eq_neg, BitVec.add_right_neg]

/-- SIGN gives -1 exactly where ABS negates. -/
theorem toNat_signValue_eq_neg_one_iff (a : U256) : (signValue a).toNat = 2 ^ 256 - 1 ↔ isneg a = true := by
  rw [toNat_signValue, isneg_iff]
  split
  next h0 => omega
  next =>
    split
    next hpos => omega
    next hneg => exact iff_of_true rfl (Nat.not_lt.mp hneg)

theorem magnitude_of_signValue_zero_or_one {a : U256} (h : signValue a = 0#256 ∨ signValue a = 1#256) :
    magnitude a = a := by
  apply magnitude_of_not_isneg
  rw [← toNat_signValue_eq_neg_one_iff]
  obtain h | h := h <;> rw [h] <;> decide

theorem magnitude_of_signValue_neg_one {a : U256} (h : (signValue a).toNat = 2 ^ 256 - 1) :
    magnitude a = negWrap a :=
  magnitude_of_isneg ((toNat_signValue_eq_neg_one_iff a).mp h)

/-- Settles O59: the second command finds the negation in `t` and, for ADD, the value where it was; the laws are those
of the values. -/
theorem signUnitLaws : Obligations.SignUnitLaws := by
  intro rt rr ra s
  refine ⟨⟨_, _, rfl, rfl, ?_⟩, fun h => ⟨_, _, rfl, rfl, ?_⟩, _, _, _, rfl, rfl, rfl, ?_⟩
  · rw [State.reg_setReg_same, State.reg_setReg_same, negWrap_negWrap]
  · rw [State.reg_setReg_same, State.reg_setReg_same, s.reg_setReg_of_ne _ h.symm, addWrap_negWrap]
  · simp only [State.reg_setReg_same]
    exact ⟨magnitude_of_signValue_zero_or_one, magnitude_of_signValue_neg_one⟩

end Sys2Proof.Machine
end

section
/-! Exponentiation (48_exp.md): the loop of R242 computes the power of R241. -/

namespace Sys2Proof.Machine

/-- The exponent bits still to scan are bit `k` and, doubled, the bits above it. -/
theorem div_two_pow_mod_two_pow_succ (e k left : Nat) :
    e / 2 ^ k % 2 ^ (left + 1) = e / 2 ^ k % 2 + 2 * (e / 2 ^ (k + 1) % 2 ^ left) := by
  rw [pow_succ' 2 left, Nat.mod_mul, Nat.div_div_eq_div_mul, ← pow_succ]

/-- The accumulator of one pass takes the running multiplier to the power of the scanned bit. -/
theorem ite_getLsbD_mulWrap (e acc run : U256) (k : Nat) :
    (if e.getLsbD k then mulWrap acc run else acc) = acc * run ^ (e.toNat / 2 ^ k % 2) := by
  split
  next h => rw [(getLsbD_eq_true_iff e k).mp h, pow_one, mulWrap_eq_mul]
  next h => rw [(getLsbD_eq_false_iff e k).mp (Bool.eq_false_of_not_eq_true h), pow_zero, mul_one]

/-- The loop invariant, in the ring of 256-bit values: each pass moves one bit of the exponent into the accumulator and
squares the multiplier for the bits above it (48_exp.md R242). -/
theorem expLoop_eq (e : U256) (left k : Nat) (acc run : U256) :
    expLoop e left k acc run = acc * run ^ (e.toNat / 2 ^ k % 2 ^ left) := by
  induction left generalizing k acc run with
  | zero => rw [expLoop, pow_zero, Nat.mod_one, pow_zero, mul_one]
  | succ left ih =>
    rw [expLoop, ih, ite_getLsbD_mulWrap, mulWrap_eq_mul, ← pow_two, ← pow_mul, mul_assoc, ← pow_add,
      ← div_two_pow_mod_two_pow_succ]

theorem expWrap_eq_pow (a e : U256) : expWrap a e = a ^ e.toNat := by
  rw [expWrap, expLoop_eq, pow_zero, Nat.div_one, Nat.mod_eq_of_lt e.isLt]
  exact one_mul _

theorem toNat_expWrap (a e : U256) : (expWrap a e).toNat = a.toNat ^ e.toNat % 2 ^ 256 := by
  rw [expWrap_eq_pow, BitVec.toNat_pow]

/-- Settles O60: EXP is one write of rd, with the power the loop computes. -/
theorem exponentiationResult : Obligations.ExponentiationResult := by
  intro rd rs1 rs2 s
  exact ⟨decodeOfEncodeGivesBack (.exp rd rs1 rs2) rfl, result_of_setReg rfl (toNat_expWrap _ _)⟩

end Sys2Proof.Machine
end

section
/-! What a command leaves alone and when it completes (60_exceptions.md R250, R254, R256), and the two error events
(R255, R257). -/

namespace Sys2Proof.Machine

/-! ### Commands -/

/-- Settles O28: a command that completes has changed registers and C, or DBUF, and nothing else of the state. -/
theorem commandsLeaveStatusAlone : Obligations.CommandsLeaveStatusAlone :=
  fun _ _ _ => exec_keepsStatus_keepsEnvironment

/-- A byte count above 64 takes an import or an export past the end of DBUF (log entry 14). -/
theorem exec_faults_of_not_wf {i : Instr} (h : i.wf = false) (s : State) : exec i s = .fault .dbufOutOfRange := by
  cases i with
  | setb rd n => exact if_neg (of_decide_eq_false h)
  | padb rs1 n =>
    have hn : ¬ n ≤ Config.dbufBytes := of_decide_eq_false h
    exact if_neg (by omega)
  | wslice rs1 n =>
    have hn : ¬ n ≤ Config.dbufBytes := of_decide_eq_false h
    exact (execWslice_eq_exportForm rs1 n s).trans (if_neg (by omega))
  | _ => cases h

/-- Settles O29: the decoder gives well-formed commands only, and those complete; the others stop at the end of DBUF. -/
theorem decodedCommandsAlwaysComplete : Obligations.DecodedCommandsAlwaysComplete := by
  refine ⟨fun w i s hd => exec_answers_of_wf (wf_of_decode hd) s, fun i s h => ⟨exec_faults_of_not_wf h s, ?_⟩⟩
  intro w hd
  exact Bool.false_ne_true (h.symm.trans (wf_of_decode hd))

/-! ### Error events -/

/-- Settles O13: the step is `State.raiseIllegal` on the state with the action taken. -/
theorem illegalCommandOnlySetsIllAndCause : Obligations.IllegalCommandOnlySetsIllAndCause := by
  intro w e rest s ha hd
  have hstep := step_of_accepts_error ha hd
  obtain ⟨⟨_, _, hr⟩, hi⟩ := ha
  exact ⟨_, hstep, rfl, rfl, ⟨fun _ => rfl, rfl, fun _ => rfl⟩, hi, rfl, rfl, hr, rfl, rfl⟩

theorem writeCmd_of_busy {w : CmdWord} {s : State} (h : s.inFlight.isSome = true) :
    writeCmd w s = .next (s.dropWrite .cmdBusy) :=
  if_pos h

/-- Settles O14: both steps are `State.dropWrite` on the state with the action taken. -/
theorem writesWhileBusyAreDropped : Obligations.WritesWhileBusyAreDropped := by
  intro i rest s hi
  have hb : (s.withHost rest).inFlight.isSome = true := by simp [hi]
  refine ⟨fun w h => ?_, fun k b hk h => ?_⟩
  · have hstep : step s = writeCmd w (s.withHost rest) := step_of_hostLands_write h (by decide)
    exact ⟨_, hstep.trans (writeCmd_of_busy hb), rfl, rfl, rfl, ⟨fun _ => rfl, rfl, fun _ => rfl⟩, hi, rfl⟩
  · exact ⟨_, (step_of_dbuf_write h hk).trans (writeDbuf_of_busy hb), rfl, rfl, rfl,
      ⟨fun _ => rfl, rfl, fun _ => rfl⟩, hi, rfl⟩

end Sys2Proof.Machine
end

section
/-! The end of a command in progress (70_reset_and_hazards.md R285, R286), and the host that waits for it (R289). -/

namespace Sys2Proof.Machine

/-! ### A command in progress ends -/

/-- No effect reaches the actions that are pending after it. -/
theorem ActionEffect.host_eq {a : HostAction} {s t : State} (h : ActionEffect a s t) : t.host = s.host := by
  cases h with
  | run w i _ _ _ _ _ hx =>
    obtain ⟨_, _, hhost, _⟩ := exec_keepsStatus_keepsEnvironment hx
    exact hhost
  | nothing | reset | read | readDraw | ack | drop | illegal | accept | store => rfl

/-- With a command in progress, an action abandons it by a reset or leaves it in progress
(70_reset_and_hazards.md R281). -/
theorem ActionEffect.busy_cases {a : HostAction} {s t : State} (h : ActionEffect a s t) (hb : s.busy = true) :
    t.inFlight = none ∨ (t.inFlight = s.inFlight ∧ t.resetHeld = s.resetHeld) := by
  cases h with
  | reset => exact .inl rfl
  | nothing | read | readDraw | ack | drop => exact .inr ⟨rfl, rfl⟩
  | illegal _ _ _ _ hn | accept _ _ _ _ hn | run _ _ _ _ _ hn | store _ _ _ _ hn => simp [hb] at hn

/-- A step with a command in progress ends it, or takes one of the pending actions and leaves it in progress. -/
theorem step_busy_cases {i : Instr} {s : State} (hi : s.inFlight = some i) (hwf : i.wf = true)
    (hr : s.resetHeld = false) (hp : ∀ a ∈ s.host, a.permitted = true) :
    ∃ t, step s = .next t ∧ (t.inFlight = none ∨
      (t.inFlight = some i ∧ t.resetHeld = false ∧ ∃ a, s.host = a :: t.host)) := by
  obtain ⟨a, rest, ⟨hh, _⟩, hs⟩ | ⟨j, hj, hs⟩ | ⟨hn, _, _⟩ := step_cases s
  · have hb : (s.withHost rest).busy = true := by simp [State.busy, hi]
    obtain ⟨t, ht⟩ := performAction_answers_of_busy hb hr (hp a (by simp [hh]))
    have he := performAction_effect ht
    refine ⟨t, hs.trans ht, (he.busy_cases hb).imp_right ?_⟩
    rintro ⟨hi', hr'⟩
    exact ⟨hi'.trans hi, hr'.trans hr, a, by rw [hh, he.host_eq, State.withHost_host]⟩
  · cases hi.symm.trans hj
    obtain ⟨t, ht⟩ := exec_answers_of_wf hwf s.release
    obtain ⟨⟨hidle, _⟩, _⟩ := exec_keepsStatus_keepsEnvironment ht
    exact ⟨t, hs.trans ht, .inl hidle⟩
  · simp [hi] at hn

/-- The list of pending actions gets shorter with every action that lands, so the command is not held up for
ever. -/
theorem run_reaches_idle {i : Instr} {s : State} (hi : s.inFlight = some i) (hwf : i.wf = true)
    (hr : s.resetHeld = false) (hp : ∀ a ∈ s.host, a.permitted = true) :
    ∃ k t, k ≤ s.host.length + 1 ∧ Sys2Proof.core.run k s = .next t ∧ t.inFlight = none := by
  obtain ⟨t, hstep, hidle | ⟨hi', hr', a, hh⟩⟩ := step_busy_cases hi hwf hr hp
  · exact ⟨1, t, Nat.le_add_left .., core_run_succ hstep, hidle⟩
  · obtain ⟨_, hp'⟩ := List.forall_mem_cons.mp (hh ▸ hp)
    obtain ⟨k, u, hk, hrun, hidle⟩ := run_reaches_idle hi' hwf hr' hp'
    refine ⟨k + 1, u, ?_, (core_run_succ hstep).trans hrun, hidle⟩
    rw [hh]
    exact Nat.succ_le_succ hk
termination_by s.host.length
decreasing_by simp [hh]

/-- Settles O22: accesses leave the command as it was accepted, and each pending action is taken at most once. -/
theorem commandInProgressCompletes : Obligations.CommandInProgressCompletes := by
  intro s hinv hr
  constructor
  · intro i early rest hi hh he hrest
    have hcore : SameCore s { s with inFlight := none } := ⟨rfl, rfl, rfl, rfl⟩
    obtain ⟨u, hu⟩ := exec_answers_of_wf (hinv.inFlight_wf i hi) s
    obtain ⟨u', hu', huu'⟩ := hcore.exec_next hu
    obtain ⟨t, hrun, hidle, hhost, htu⟩ := run_overlapped hi hr hh he hrest hu
    have htu' := htu.trans huu'
    exact ⟨t, u', hrun, hu', hidle, hhost, congrFun htu'.reg_eq, htu'.c, htu'.dbuf⟩
  · intro hp hb
    obtain ⟨i, hi⟩ := Option.isSome_iff_exists.mp hb
    exact run_reaches_idle hi (hinv.inFlight_wf i hi) hr hp

/-! ### A host that waits out BUSY -/

theorem whileBusy_eq_false_of_waitsOutBusy {a : HostAction} {offset : Nat} {d : BusData} (h : a.waitsOutBusy = true)
    (he : a.event = .write offset d) (ho : offset = cmdOffset ∨ dbufOffset ≤ offset) : a.whileBusy = false := by
  simp only [HostAction.waitsOutBusy, he, Bool.or_eq_true, Bool.not_eq_true', Bool.or_eq_false_iff,
    decide_eq_false_iff_not] at h
  exact h.resolve_right (fun hn => ho.elim hn.1 hn.2)

/-- An action that lands after the command before it meets an idle core. -/
theorem Lands.idle_of_not_whileBusy {a : HostAction} {rest : List HostAction} {s : State} (h : Lands a rest s)
    (hw : a.whileBusy = false) : s.inFlight = none :=
  h.2.resolve_right (by simp [hw])

/-- OVR is set by a dropped write only. -/
theorem ActionEffect.ovr_cases {a : HostAction} {s t : State} (h : ActionEffect a s t) (ht : t.ovr = true) :
    s.ovr = true ∨ (s.busy = true ∧
      ∃ offset d, a.event = .write offset d ∧ (offset = cmdOffset ∨ dbufOffset ≤ offset)) := by
  cases h with
  | drop _ offset d _ he ho hb => exact .inr ⟨hb, offset, d, he, ho⟩
  | reset => cases ht
  | ack v => exact .inl ((s.ackStatus_ovr_iff v).mp ht).1
  | run w i _ _ _ _ _ hx =>
    obtain ⟨⟨_, _, hovr, _⟩, _⟩ := exec_keepsStatus_keepsEnvironment hx
    exact .inl (hovr.symm.trans ht)
  | nothing | read | readDraw | illegal | accept | store => exact .inl ht

theorem ovr_of_lands_of_waitsOutBusy {a : HostAction} {rest : List HostAction} {s t : State} (hl : Lands a rest s)
    (hw : a.waitsOutBusy = true) (he : ActionEffect a (s.withHost rest) t) (ht : t.ovr = true) : s.ovr = true := by
  obtain ho | ⟨hb, offset, d, hev, hoff⟩ := he.ovr_cases ht
  · exact ho
  · have hi := hl.idle_of_not_whileBusy (whileBusy_eq_false_of_waitsOutBusy hw hev hoff)
    simp [State.busy, hi] at hb

/-- Settles O32: only a dropped write sets OVR, and a write that waits lands on an idle core. -/
theorem hostThatWaitsNeverOverruns : Obligations.HostThatWaitsNeverOverruns := by
  intro s t hw h
  obtain ⟨a, rest, hl, he⟩ | ⟨i, _, hx⟩ | rfl := step_next_cases h
  · obtain ⟨ha, hrest⟩ := List.forall_mem_cons.mp (hl.1 ▸ hw)
    refine ⟨ovr_of_lands_of_waitsOutBusy hl ha he, ?_⟩
    rwa [he.host_eq]
  · obtain ⟨⟨_, _, hovr, _⟩, _, hhost, _⟩ := exec_keepsStatus_keepsEnvironment hx
    exact ⟨hovr.symm.trans, hhost.symm ▸ hw⟩
  · exact ⟨id, hw⟩

end Sys2Proof.Machine
end

section
/-! Reset (70_reset_and_hazards.md R280, R281). -/

namespace Sys2Proof.Machine

@[simp] theorem State.statusWord_resetTo (s : State) (held : Bool) : (s.resetTo held).statusWord = 0#32 := by
  simp [State.statusWord, State.statusWith, State.busy, Cause.code]

theorem performAction_releaseReset {ag : Agent} {early : Bool} {s : State} (h : s.resetHeld = true) :
    performAction ⟨.releaseReset, ag, early⟩ s = .next (s.resetTo false) := by
  simp [performAction, h]

/-- Settles O9: either edge of the reset input is `State.resetTo` on the state with the action taken. -/
theorem resetGivesResetValuesAndAbandonsCommand : Obligations.ResetGivesResetValuesAndAbandonsCommand := by
  intro ag early rest s hl
  have hstep : ∃ held, step s = .next ((s.withHost rest).resetTo held) ∧
      (held = true ↔ s.host = ⟨.assertReset, ag, early⟩ :: rest) := by
    obtain hl | ⟨hl, hr⟩ := hl
    · exact ⟨true, step_of_lands hl, iff_of_true rfl hl.1⟩
    · exact ⟨false, (step_of_lands hl).trans (performAction_releaseReset hr),
        iff_of_false Bool.false_ne_true (by simp [hl.1])⟩
  obtain ⟨held, hstep, hheld⟩ := hstep
  exact ⟨_, hstep, State.reg_resetTo _ held, rfl, State.statusWord_resetTo _ held, rfl, fun _ => rfl, rfl, hheld⟩

/-- Settles O24: no command, no sticky bit and no written byte. -/
theorem resetMeetsTheMachineInvariant : Obligations.ResetMeetsTheMachineInvariant :=
  ⟨State.reset_dbuf_wf, by simp, by simp, by simp, by simp⟩

end Sys2Proof.Machine
end
